-- ==== Sys2Proof/Word.lean ====
section
/-!
DEFINITION. The value types of LEDTX (spec 00_scope.md R9, R10; 30_encoding.md R65): unsigned bit vectors of the widths the
spec gives, the color record, and the three color channels.
-/

namespace Sys2Proof

/-- `u8` of R10: a channel value, the brightness factor, or one byte of the stream. -/
abbrev Byte := BitVec 8

/-- `u32` of R10: the one width of a host transaction's data (R50, R51). -/
abbrev Word := BitVec 32

/-- A byte offset in the 18-bit host register window (R45). -/
abbrev Offset := BitVec 18

/-- A host transaction word `T`, 51 bits (R65). -/
abbrev Txn := BitVec 51

/-- `Color` of R10: three unsigned 8-bit channels. -/
structure Color where
  r : Byte
  g : Byte
  b : Byte
  deriving DecidableEq, Repr

/-- The three channels of a color (R8), as names for the wire order (R100). -/
inductive Channel where
  | red
  | green
  | blue
  deriving DecidableEq, Repr

end Sys2Proof
end

