-- ==== Sys2Proof/Syntax.lean ====
section
/-!
DEFINITION. What the host says to LEDTX: the decoded transactions, one constructor per row of spec/opcode_table.json (R72),
a host access before it is written as a transaction word (R51, R65), and the turns by which the agents interleave (R5).
-/

namespace Sys2Proof

/-- The 19 rows of the opcode map (R72), in decode order. An operand keeps every bit of the field it is read from (R66),
the ignored ones too, so that no bit of a word is lost by decoding. -/
inductive Instr where
  /-- Row 1, R127. -/
  | nop
  /-- Row 2, R128. -/
  | send
  /-- Row 3, R112. -/
  | encode
  /-- Row 4, R129. -/
  | sendStream
  /-- Row 5, R130. -/
  | idleGap
  /-- Row 6, R81. -/
  | rdStatus
  /-- Row 7, R82. -/
  | rdBright
  /-- Row 8, R83: the write data `D`. -/
  | wrBright (d : Word)
  /-- Row 9, R84. -/
  | rdParamN
  /-- Row 10, R85. -/
  | rdParamHdr
  /-- Row 11, R86. -/
  | rdParamLen
  /-- Row 12, R87. -/
  | rdParamCfg
  /-- Row 13, R88. -/
  | rdParamGap
  /-- Row 14, R89: the pixel index `i = A[11:2]`. -/
  | rdPix (i : BitVec 10)
  /-- Row 15, R90: the pixel index `i = A[11:2]` and the write data. -/
  | wrPix (i : BitVec 10) (d : Word)
  /-- Row 16, R91: the stream index `k = A[16:2]`. -/
  | rdEnc (k : BitVec 15)
  /-- Row 17, R92: the stream index `k = A[16:2]` and the write data. -/
  | wrEnc (k : BitVec 15) (d : Word)
  /-- Row 18, R93: the offset read; it selects nothing and is kept so that the word can be encoded again. -/
  | rdZero (a : Offset)
  /-- Row 19, R94: the offset and data written; both unused and kept so that the word can be encoded again. -/
  | wrIgnored (a : Offset) (d : Word)
  deriving DecidableEq, Repr

/-- A host access before it is written in the 51-bit format: `MemRead(off, width)` or `MemWrite(off, width, v)` of R11. The
format has no width field (R51), so `width`, in bytes, is what the transcriber checks. -/
structure Access where
  write : Bool
  width : Nat
  offset : Offset
  data : Word
  deriving DecidableEq, Repr

/-- One turn of the interleaving (R5, R154): the host tries its pending transaction, the device ticks with a value of the
BUS_FAULT input (R146), or the environment applies RESET (R166). -/
inductive Turn where
  | host
  | tick (busFault : Bool)
  | reset
  deriving DecidableEq, Repr

end Sys2Proof
end

