-- ==== Sys2Proof/Config.lean ====
section
/-!
DEFINITION. The configuration parameters of R6, which State carries as plain data and no step changes, the one
configuration that `State.reset` takes, and the free values: opaque constants without a body, of which no proof can know
anything.
-/

namespace Sys2Proof

/-- CHANNEL_ORDER of R6: the channels of a pixel in the order they are sent. A list, so that an order other than the two
the spec admits can be written down and refused (R7, R152 BadConfig). -/
abbrev ChannelOrder := List Channel

/-- The configuration parameters of R6; times are in picoseconds. -/
structure Config where
  /-- `N`, the LED count. -/
  n : Nat
  /-- `HEADER_LEN`, the number of header bytes. -/
  headerLen : Nat
  /-- `CHANNEL_ORDER`, the wire order of a pixel's channels. -/
  order : ChannelOrder
  /-- `T_SLOT`, the serial clock period. -/
  tSlot : Nat
  /-- `RESET_MIN`, the minimum low time after a frame. -/
  resetMin : Nat
  /-- `RESET_TICKS`, the length of the reset gap in slots. -/
  resetTicks : Nat
  deriving DecidableEq, Repr

/-- The configuration `State.reset` takes: the one spec/95_test_vectors.md uses unless it says otherwise. DESIGN CHOICE
(log entry 1): R6 leaves every parameter open, and every statement is about every configuration. -/
def Config.vectors : Config where
  n := 3
  headerLen := 0
  order := [.green, .red, .blue]
  tSlot := 312500
  resetMin := 50000000
  resetTicks := 160

/-- FREE VALUE (log entry 5): the draw `x` of R120, the line level at a faulting tick and at every tick in HALTED (R122,
R124, D21), one for each draw taken. -/
opaque Config.freeLevel : Nat → Bool

/-- FREE VALUE (log entry 2): the turns of the host and the environment that the script no longer gives, up to the next
tick, one list for each round (R5, R120: any number of transactions may fall between two ticks). -/
opaque Config.freeTurns : Nat → List Turn

/-- FREE VALUE (log entry 2): the BUS_FAULT input at the tick that ends a round (R146). -/
opaque Config.freeBusFault : Nat → Bool

/-- FREE VALUE (log entry 3): the accesses the host's software issues in a round (R5, R20). -/
opaque Config.freeIssue : Nat → List Access

/-- FREE VALUE (log entry 6): what PARAM_GAP is made from where RESET_TICKS does not fit in its 32 bits (R33, R88: R6 gives
RESET_TICKS no upper bound). -/
opaque Config.freeParamGap : Nat → Word

end Sys2Proof
end

