-- ==== Sys2Proof/WellFormed.lean ====
section
/-!
DEFINITION. Which terms of `Instr` are instructions: only the two catch-all rows RD_ZERO and WR_IGNORED carry an offset, and
it must be one that no earlier row and no refusal of R67 takes (R93, R94). Every other operand is legal at every value (R66).
-/

namespace Sys2Proof

/-- The offset is word-aligned: `A[1:0] = 0` (R52). -/
def alignedOffset (a : Offset) : Bool := a.extractLsb' 0 2 == 0#2

/-- The reserved ranges of the map: 0x00020-0x00FFF and 0x02000-0x1FFFF (R46, R49). -/
def reservedOffset (a : Offset) : Bool :=
  (0x00020 ≤ a.toNat && a.toNat ≤ 0x00FFF) || (0x02000 ≤ a.toNat && a.toNat ≤ 0x1FFFF)

/-- The offsets RD_ZERO reads: CTRL and the reserved ranges (R93). -/
def readsZero (a : Offset) : Bool := a == 0x00000#18 || reservedOffset a

/-- The offsets WR_IGNORED writes: STATUS, PARAM_N to PARAM_GAP and the reserved ranges (R94). -/
def writeIgnored (a : Offset) : Bool :=
  a == 0x00004#18 || (0x0000C ≤ a.toNat && a.toNat ≤ 0x0001F) || reservedOffset a

/-- The well-formed instructions. -/
def Instr.wf : Instr → Bool
  | .nop => true
  | .send => true
  | .encode => true
  | .sendStream => true
  | .idleGap => true
  | .rdStatus => true
  | .rdBright => true
  | .wrBright _ => true
  | .rdParamN => true
  | .rdParamHdr => true
  | .rdParamLen => true
  | .rdParamCfg => true
  | .rdParamGap => true
  | .rdPix _ => true
  | .wrPix _ _ => true
  | .rdEnc _ => true
  | .wrEnc _ _ => true
  | .rdZero a => alignedOffset a && readsZero a
  | .wrIgnored a _ => alignedOffset a && writeIgnored a

end Sys2Proof
end

