-- ==== Sys2Proof/Decode.lean ====
section
/-!
DEFINITION. The 51-bit transaction word (R65), its fields (R66), the opcode map as a table (R72), the total decoder (R67),
the transcriber of host accesses (R51, R71 (e)), and after them the encoder.
-/

namespace Sys2Proof

/-! ## The transaction word (R65) -/

/-- `W`, bit 50: 1 is a write. -/
def txnWrite (t : Txn) : Bool := t.getLsbD 50

/-- `A`, bits 49:32: the byte offset. -/
def txnOffset (t : Txn) : Offset := t.extractLsb' 32 18

/-- `D`, bits 31:0: the write data, 0 for a read. -/
def txnData (t : Txn) : Word := t.extractLsb' 0 32

/-- `T = W * 2^50 + A * 2^32 + D`. -/
def mkTxn (w : Bool) (a : Offset) (d : Word) : Txn := ((BitVec.ofBool w ++ a) ++ d : BitVec (1 + 18 + 32))

/-! ## Operand fields (R66) -/

/-- `i = A[11:2]`, the pixel index. -/
def fieldPix (t : Txn) : BitVec 10 := (txnOffset t).extractLsb' 2 10

/-- `k = A[16:2]`, the stream index. -/
def fieldEnc (t : Txn) : BitVec 15 := (txnOffset t).extractLsb' 2 15

/-- `cmd = D[3:0]`, the command code of a write to CTRL (R69). -/
def fieldCmd (t : Txn) : BitVec 4 := (txnData t).extractLsb' 0 4

/-- `D[31:4]`, reserved in a command word (R69). -/
def fieldCtrlReserved (t : Txn) : BitVec 28 := (txnData t).extractLsb' 4 28

/-! ## The opcode map (R72) -/

/-- One row of spec/opcode_table.json: a word belongs to it when `T & mask = pattern`. -/
structure OpcodeRow where
  mnemonic : String
  pattern : Txn
  mask : Txn
  build : Txn → Instr

/-- `T & mask = match` (R67 step 5). -/
def OpcodeRow.admits (r : OpcodeRow) (t : Txn) : Bool := t &&& r.mask == r.pattern

/-- Rows 1 to 5: the commands, writes to CTRL (R70). -/
def commandRows : List OpcodeRow := [
  ⟨"NOP", 0x4000000000000#51, 0x7FFFFFFFFFFFF#51, fun _ => .nop⟩,
  ⟨"SEND", 0x4000000000001#51, 0x7FFFFFFFFFFFF#51, fun _ => .send⟩,
  ⟨"ENCODE", 0x4000000000002#51, 0x7FFFFFFFFFFFF#51, fun _ => .encode⟩,
  ⟨"SEND_STREAM", 0x4000000000003#51, 0x7FFFFFFFFFFFF#51, fun _ => .sendStream⟩,
  ⟨"IDLE_GAP", 0x4000000000004#51, 0x7FFFFFFFFFFFF#51, fun _ => .idleGap⟩]

/-- Rows 6 to 13: the registers (R81 to R88). -/
def registerRows : List OpcodeRow := [
  ⟨"RD_STATUS", 0x0000400000000#51, 0x7FFFFFFFFFFFF#51, fun _ => .rdStatus⟩,
  ⟨"RD_BRIGHT", 0x0000800000000#51, 0x7FFFFFFFFFFFF#51, fun _ => .rdBright⟩,
  ⟨"WR_BRIGHT", 0x4000800000000#51, 0x7FFFF00000000#51, fun t => .wrBright (txnData t)⟩,
  ⟨"RD_PARAM_N", 0x0000C00000000#51, 0x7FFFFFFFFFFFF#51, fun _ => .rdParamN⟩,
  ⟨"RD_PARAM_HDR", 0x0001000000000#51, 0x7FFFFFFFFFFFF#51, fun _ => .rdParamHdr⟩,
  ⟨"RD_PARAM_LEN", 0x0001400000000#51, 0x7FFFFFFFFFFFF#51, fun _ => .rdParamLen⟩,
  ⟨"RD_PARAM_CFG", 0x0001800000000#51, 0x7FFFFFFFFFFFF#51, fun _ => .rdParamCfg⟩,
  ⟨"RD_PARAM_GAP", 0x0001C00000000#51, 0x7FFFFFFFFFFFF#51, fun _ => .rdParamGap⟩]

/-- Rows 14 to 17: the PIX and ENC windows (R89 to R92). -/
def windowRows : List OpcodeRow := [
  ⟨"RD_PIX", 0x0100000000000#51, 0x7F003FFFFFFFF#51, fun t => .rdPix (fieldPix t)⟩,
  ⟨"WR_PIX", 0x4100000000000#51, 0x7F00300000000#51, fun t => .wrPix (fieldPix t) (txnData t)⟩,
  ⟨"RD_ENC", 0x2000000000000#51, 0x60003FFFFFFFF#51, fun t => .rdEnc (fieldEnc t)⟩,
  ⟨"WR_ENC", 0x6000000000000#51, 0x6000300000000#51, fun t => .wrEnc (fieldEnc t) (txnData t)⟩]

/-- Rows 18 and 19: the catch-alls, taken only when no earlier row matches (R67, R72). -/
def catchAllRows : List OpcodeRow := [
  ⟨"RD_ZERO", 0x0000000000000#51, 0x40003FFFFFFFF#51, fun t => .rdZero (txnOffset t)⟩,
  ⟨"WR_IGNORED", 0x4000000000000#51, 0x4000300000000#51, fun t => .wrIgnored (txnOffset t) (txnData t)⟩]

/-- The 17 rows before the catch-alls. -/
def exactRows : List OpcodeRow := commandRows ++ registerRows ++ windowRows

/-- The opcode map, in decode order. -/
def opcodeTable : List OpcodeRow := exactRows ++ catchAllRows

/-! ## Decoding (R67) -/

/-- Why a word or an access has no meaning (R71, R152). -/
inductive DecodeError where
  /-- R67 step 1: `A[1:0] ≠ 0`. -/
  | misaligned
  /-- R67 step 2: a read with `D ≠ 0`. -/
  | readDataNonzero
  /-- R67 step 3: a write to CTRL with `D[31:4] ≠ 0`. -/
  | ctrlReservedBits
  /-- R67 step 4: a write to CTRL with `D[3:0] ≥ 5`. -/
  | reservedCommand
  /-- R71 (e): an access that is not 32 bits wide. -/
  | badWidth
  /-- No row matches: after steps 1 to 4 some row always does (R67), so no word is refused with this reason. -/
  | noRow
  deriving DecidableEq, Repr

/-- The decoder: the four refusal checks in the order of R67, then the first row that matches. -/
def decode (t : Txn) : Except DecodeError Instr :=
  if alignedOffset (txnOffset t) = false then .error .misaligned
  else if txnWrite t = false ∧ txnData t ≠ 0#32 then .error .readDataNonzero
  else if txnWrite t = true ∧ txnOffset t = 0#18 ∧ fieldCtrlReserved t ≠ 0#28 then .error .ctrlReservedBits
  else if txnWrite t = true ∧ txnOffset t = 0#18 ∧ 5 ≤ (fieldCmd t).toNat then .error .reservedCommand
  else match opcodeTable.find? (fun r => r.admits t) with
    | some r => .ok (r.build t)
    | none => .error .noRow

/-- The transcriber: only a 4-byte access can be written as a transaction word (R51, R71 (e)). -/
def Access.transcribe (a : Access) : Except DecodeError Txn :=
  if a.width = 4 then .ok (mkTxn a.write a.offset a.data) else .error .badWidth

/-- The access that is written as the word `t` (R65). -/
def Access.ofTxn (t : Txn) : Access := ⟨txnWrite t, 4, txnOffset t, txnData t⟩

/-- What the host's access asks for: transcribed, then decoded. -/
def Access.decode (a : Access) : Except DecodeError Instr :=
  match a.transcribe with
  | .ok t => Sys2Proof.decode t
  | .error e => .error e

/-- The instruction the decoder reads from the word `w`, of which the table gives `nbits` bits; the bits above are 0. A
transaction is one 51-bit word (R65, R73), so a number of more bits is no transaction. -/
def decodeTableWord (nbits w : Nat) : Option Instr :=
  if w % 2 ^ nbits < 2 ^ 51 then
    match decode (BitVec.ofNat 51 (w % 2 ^ nbits)) with
    | .ok i => some i
    | .error _ => none
  else none

/-! ## Encoding -/

/-- The offset of PIX[i]: `0x01000 + 4*i` (R47). -/
def pixOffset (i : BitVec 10) : Offset := (0b000001#6 ++ i ++ 0#2 : BitVec (6 + 10 + 2))

/-- The offset of ENC[k]: `0x20000 + 4*k` (R48). -/
def encOffset (k : BitVec 15) : Offset := (1#1 ++ k ++ 0#2 : BitVec (1 + 15 + 2))

/-- The word of an instruction (R72). -/
def encode : Instr → Txn
  | .nop => mkTxn true 0x00000#18 0#32
  | .send => mkTxn true 0x00000#18 1#32
  | .encode => mkTxn true 0x00000#18 2#32
  | .sendStream => mkTxn true 0x00000#18 3#32
  | .idleGap => mkTxn true 0x00000#18 4#32
  | .rdStatus => mkTxn false 0x00004#18 0#32
  | .rdBright => mkTxn false 0x00008#18 0#32
  | .wrBright d => mkTxn true 0x00008#18 d
  | .rdParamN => mkTxn false 0x0000C#18 0#32
  | .rdParamHdr => mkTxn false 0x00010#18 0#32
  | .rdParamLen => mkTxn false 0x00014#18 0#32
  | .rdParamCfg => mkTxn false 0x00018#18 0#32
  | .rdParamGap => mkTxn false 0x0001C#18 0#32
  | .rdPix i => mkTxn false (pixOffset i) 0#32
  | .wrPix i d => mkTxn true (pixOffset i) d
  | .rdEnc k => mkTxn false (encOffset k) 0#32
  | .wrEnc k d => mkTxn true (encOffset k) d
  | .rdZero a => mkTxn false a 0#32
  | .wrIgnored a d => mkTxn true a d

end Sys2Proof
end

