-- ==== Sys2Proof/Machine/State.lean ====
section
/-!
DEFINITION. The state of LEDTX as plain data (spec 10_state.md R20): the nine elements the spec names, the configuration they
belong to, and the sides of the host and the environment that a step without arguments must find in the state. The reset
state (R35, R166), and the reasons for which a step can stop.
-/

namespace Sys2Proof.Machine

/-- The sequencer phase (R26). -/
inductive Phase where
  /-- No frame and no gap in progress; a command is accepted. -/
  | idle
  /-- A frame is being shifted out from ENC. -/
  | busy
  /-- The reset gap is being timed. -/
  | gap
  /-- A bus fault occurred; terminal until RESET. -/
  | halted
  deriving DecidableEq, Repr

/-- The causes of a fault entry, listed in full (R145, R150). The entry leads to a next state (R147, R148), so a cause is no
`Fault`, which is a reason to stop; and no cause is stored, since "a single cause needs none" (R145). -/
inductive Cause where
  /-- BusFault: a BUSY tick with BUS_FAULT = 1. -/
  | busFault
  deriving DecidableEq, Repr

/-- An array as sparse data: pairs of an index and a value, indices strictly rising, no value equal to what an unlisted index
reads as (Machine/Ops.lean). -/
abbrev Store (α : Type) := List (Nat × α)

/-- The bytes of ENC, keyed by stream index (R24): a list of `Host.Cell`. -/
abbrev Memory := Store Byte

/-- The state of the model. -/
structure State where
  /-- The configuration (R6): no step changes it. -/
  cfg : Config
  /-- `PIX`, the pixel buffer (R23); an unlisted index holds {0, 0, 0}. -/
  pix : Store Color
  /-- `ENC`, the encoded-stream buffer (R24); an unlisted index holds 0x00. -/
  enc : Memory
  /-- `BRIGHT`, the scale factor (R25). -/
  bright : Byte
  /-- `PHASE` (R26). -/
  phase : Phase
  /-- `FAULT`, sticky (R27). -/
  fault : Bool
  /-- `POS`, the index of the stream byte being shifted (R30). -/
  pos : Nat
  /-- `SLOT`, the next bit of that byte in shift order (R10, R30). -/
  slot : Fin 8
  /-- `GAPCNT`, the low slots still to be held (R31). -/
  gapcnt : Nat
  /-- `DOUT`, the level of the data line (R32). -/
  dout : Bool
  /-- The host's side: the accesses issued and not yet completed, oldest first; the head is the pending one (R57, R126). -/
  host : List Access
  /-- The host's side: what the last completed read returned (R80). -/
  rdata : Word
  /-- The turns to come, oldest first (R5, R146, R166). -/
  script : List Turn
  /-- How many rounds the free schedule has given. -/
  rounds : Nat
  /-- How many line draws have been taken (R120). -/
  draws : Nat
  deriving DecidableEq, Repr

/-- The reasons a step can stop the machine. LEDTX's own fault, BusFault (R145), is none of them: the spec describes the
state after it, so it is a next state. These two stop only in states that R34 rules out, so both are safe. -/
inductive Fault where
  /-- Raised by a BUSY tick with POS ≥ LEN: there is no ENC[POS] to send (R24, R34 (a)). Safe. -/
  | streamPosition
  /-- Raised by a GAP tick with GAPCNT = 0: no natural number is GAPCNT - 1 (R31, R34 (b)). Safe. -/
  | gapCounter
  deriving DecidableEq, Repr

/-- The refusals of R152: the spec gives the transaction or the configuration no meaning. All are safe. -/
inductive Refusal where
  /-- An instruction without a meaning in the model; raised by no arm of `exec`. Safe. -/
  | notModelled (mnemonic : String)
  /-- Raised by the host's turn: `A[1:0] ≠ 0` (R67 step 1). Safe. -/
  | misaligned
  /-- Raised by the host's turn: a read with `D ≠ 0` (R67 step 2). Safe. -/
  | readDataNonzero
  /-- Raised by the host's turn: a write to CTRL with `D[31:4] ≠ 0` (R67 step 3). Safe. -/
  | ctrlReservedBits
  /-- Raised by the host's turn: a write to CTRL with `D[3:0]` in 5..15 (R67 step 4). Safe. -/
  | reservedCommand
  /-- Raised by the host's turn: an access that is not 32 bits wide (R51). Safe. -/
  | badWidth
  /-- Raised by every step of a configuration outside R6 (R7). Safe. -/
  | badConfig
  /-- Never raised: after the checks some row always matches (R67). Safe. -/
  | noRow
  deriving DecidableEq, Repr

/-- The power-on state of a configuration (R35, R166); the last five fields are the model's own (log entries 2 to 5). -/
def State.resetOf (c : Config) : State where
  cfg := c
  pix := []
  enc := []
  bright := 0xFF#8
  phase := .gap
  fault := false
  pos := 0
  slot := 0
  gapcnt := c.resetTicks
  dout := false
  host := []
  rdata := 0#32
  script := []
  rounds := 0
  draws := 0

/-- The machine right after reset, in the configuration of the test vectors (log entry 1). -/
def State.reset : State := State.resetOf Config.vectors

/-- What a meaning answers. -/
abbrev Result := Host.Outcome State Fault Refusal

end Sys2Proof.Machine
end

