-- ==== Sys2Proof/Machine/Params.lean ====
section
/-!
DEFINITION. What follows from the configuration parameters: the legal configurations (R6, R7), the stream length (R99) and
the values of the parameter registers (R33).
-/

namespace Sys2Proof

/-- CHANNEL_ORDER = RGB. -/
def ChannelOrder.rgb : ChannelOrder := [.red, .green, .blue]

/-- CHANNEL_ORDER = GRB. -/
def ChannelOrder.grb : ChannelOrder := [.green, .red, .blue]

/-- The constraints of R6. -/
def Config.legal (c : Config) : Bool :=
  (1 ≤ c.n && c.n ≤ 1024) && c.headerLen ≤ 4096 && (c.order == ChannelOrder.rgb || c.order == ChannelOrder.grb)
    && 1 ≤ c.tSlot && 1 ≤ c.resetMin && 1 ≤ c.resetTicks && c.resetMin ≤ c.resetTicks * c.tSlot

/-- `LEN = HEADER_LEN + 12 * N` (R6, R99). -/
def Config.len (c : Config) : Nat := c.headerLen + 12 * c.n

/-- `PARAM_N` (R33, R84). -/
def Config.paramN (c : Config) : Word := BitVec.ofNat 32 c.n

/-- `PARAM_HDR` (R33, R85). -/
def Config.paramHdr (c : Config) : Word := BitVec.ofNat 32 c.headerLen

/-- `PARAM_LEN` (R33, R86). -/
def Config.paramLen (c : Config) : Word := BitVec.ofNat 32 c.len

/-- `PARAM_CFG`: bit 0 is 1 for GRB and 0 for RGB (R33, R87). -/
def Config.paramCfg (c : Config) : Word := if c.order = ChannelOrder.grb then 1#32 else 0#32

/-- A free value brought into `[1, 2^32 - 1]`, where each value can stand: "the value is at least 1" (R88). -/
def atLeastOne (v : Word) : Word := BitVec.ofNat 32 (v.toNat % (2 ^ 32 - 1) + 1)

/-- `PARAM_GAP` (R33, R88); a free value that is at least 1 where RESET_TICKS is no `u32` (log entry 6). -/
def Config.paramGap (c : Config) : Word :=
  if c.resetTicks < 2 ^ 32 then BitVec.ofNat 32 c.resetTicks else atLeastOne (Config.freeParamGap c.resetTicks)

end Sys2Proof
end

