-- ==== Sys2Proof/Machine/Encoder.lean ====
section
/-!
DEFINITION. The pure functions of the scale stage and the protocol encoder (spec 41_protocol_encoder.md R95 to R106).
`stream` here takes the pixels as a function of their index; Machine/Ops.lean applies it to PIX.
-/

namespace Sys2Proof

/-- `scale8(c, f) = (c * f) div 255`, formed at full width (R95, R108). -/
def scale8 (c f : Byte) : Byte := BitVec.ofNat 8 (c.toNat * f.toNat / 255)

/-- `scale(p, f)`: the three channels share the one factor (R95, R109). -/
def Color.scale (p : Color) (f : Byte) : Color := ⟨scale8 p.r f, scale8 p.g f, scale8 p.b f⟩

/-- `SYM(b)`, the 4 slots of a logical bit with the earliest in bit 3 (R96). -/
def symbol (b : Bool) : BitVec 4 := if b then 0xE#4 else 0x8#4

/-- `pack`: the earlier bit's symbol in bits 7:4 (R97). -/
def packBits (first second : Bool) : Byte := (symbol first ++ symbol second : BitVec (4 + 4))

/-- `PAIR`, the byte of two logical bits (R98). -/
def pairByte (v : BitVec 2) : Byte :=
  match v with
  | 0b00#2 => 0x88#8
  | 0b01#2 => 0x8E#8
  | 0b10#2 => 0xE8#8
  | 0b11#2 => 0xEE#8

/-- `enc8(v)`: four bytes, most significant bits first (R98). -/
def enc8 (v : Byte) : List Byte :=
  [pairByte (v.extractLsb' 6 2), pairByte (v.extractLsb' 4 2), pairByte (v.extractLsb' 2 2), pairByte (v.extractLsb' 0 2)]

/-- One channel of a color. -/
def Color.channel (p : Color) (ch : Channel) : Byte :=
  match ch with
  | .red => p.r
  | .green => p.g
  | .blue => p.b

/-- `wire(p)`: the channel values in the order they are sent (R100). -/
def wire (o : ChannelOrder) (p : Color) : List Byte := o.map p.channel

/-- `encpix(p)`: the channels back to back (R101). -/
def encPix (o : ChannelOrder) (p : Color) : List Byte := (wire o p).flatMap enc8

/-- `stream(PIX, f)`: the header of 0x00 bytes, then the scaled pixels in buffer order (R102, R103). -/
def encodeStream (c : Config) (pix : Nat → Color) (f : Byte) : List Byte :=
  List.replicate c.headerLen 0x00#8 ++ (List.range c.n).flatMap (fun i => encPix c.order ((pix i).scale f))

/-- The closed form of stream byte `k` (R104). -/
def streamByte (c : Config) (pix : Nat → Color) (f : Byte) (k : Nat) : Byte :=
  if k < c.headerLen then 0x00#8
  else
    let q := k - c.headerLen
    let v := (wire c.order ((pix (q / 12)).scale f)).getD (q % 12 / 4) 0x00#8
    pairByte (v.extractLsb' (6 - 2 * (q % 4)) 2)

/-! ## The inverse (R106) -/

/-- `dec4`: the logical bit of a symbol; any other pattern is invalid. -/
def dec4 (s : BitVec 4) : Option Bool :=
  if s = 0xE#4 then some true else if s = 0x8#4 then some false else none

/-- The two logical bits of a byte, high nibble first. -/
def decPair (e : Byte) : Option (BitVec 2) :=
  match dec4 (e.extractLsb' 4 4), dec4 (e.extractLsb' 0 4) with
  | some a, some b => some (BitVec.ofBool a ++ BitVec.ofBool b : BitVec (1 + 1))
  | _, _ => none

/-- `dec8`: a channel value rebuilt from bit 7 down. -/
def dec8 (e0 e1 e2 e3 : Byte) : Option Byte :=
  match decPair e0, decPair e1, decPair e2, decPair e3 with
  | some a, some b, some c, some d => some (a ++ b ++ c ++ d : BitVec (2 + 2 + 2 + 2))
  | _, _, _, _ => none

/-- The channel values of a list of symbol bytes, four bytes each. -/
def decChannels : List Byte → Option (List Byte)
  | [] => some []
  | e0 :: e1 :: e2 :: e3 :: rest =>
    match dec8 e0 e1 e2 e3, decChannels rest with
    | some v, some vs => some (v :: vs)
    | _, _ => none
  | _ => none

/-- `wire` undone: the color whose channels were sent in the order `o` (R106). -/
def unwire (o : ChannelOrder) (x y z : Byte) : Color :=
  if o = ChannelOrder.grb then ⟨y, x, z⟩ else ⟨x, y, z⟩

/-- The colors of a list of channel values, three values each. -/
def groupColors (o : ChannelOrder) : List Byte → Option (List Color)
  | [] => some []
  | x :: y :: z :: rest => (groupColors o rest).map (unwire o x y z :: ·)
  | _ => none

/-- A stream decoded after its header (R106). -/
def decodeStream (c : Config) (bytes : List Byte) : Option (List Color) :=
  match decChannels (bytes.drop c.headerLen) with
  | some vs => groupColors c.order vs
  | none => none

/-! ## Line positions (R105) -/

/-- The level of slot `t` of a frame: bit `7 - (t mod 8)` of stream byte `t div 8` (R97, R105, R125). -/
def frameSlot (bytes : Nat → Byte) (t : Nat) : Bool := (bytes (t / 8)).getLsbD (7 - t % 8)

/-- The first slot of bit `n` of wire channel `ch` of pixel `i` (R105). -/
def symbolStart (c : Config) (i ch n : Nat) : Nat := 8 * c.headerLen + 96 * i + 32 * ch + 4 * (7 - n)

end Sys2Proof
end

