-- ==== Sys2Proof/Machine/Flags.lean ====
section
/-!
DEFINITION. The status flags, a view of PHASE and FAULT without storage of its own (R28, R36), and the cause codes (R150).
-/

namespace Sys2Proof.Machine

/-- STATUS.BUSY: 1 iff PHASE = BUSY. -/
def busyFlag (s : State) : Bool := s.phase == .busy

/-- STATUS.GAP: 1 iff PHASE = GAP. -/
def gapFlag (s : State) : Bool := s.phase == .gap

/-- STATUS.FAULT: the FAULT flag (R27). -/
def faultFlag (s : State) : Bool := s.fault

/-- The STATUS word: FAULT, GAP and BUSY in bits 2, 1 and 0, bits 31:3 zero (R28, R81). -/
def statusWord (s : State) : Word :=
  (0#29 ++ BitVec.ofBool (faultFlag s) ++ BitVec.ofBool (gapFlag s) ++ BitVec.ofBool (busyFlag s) : BitVec (29 + 1 + 1 + 1))

/-- The cause codes, listed in full: BusFault is 1 (R150). -/
def Cause.code : Cause → Nat
  | .busFault => 1

/-- The cause that FAULT = 1 stands for: the hardware has no cause register, and there is one cause (R145). -/
def State.recordedCause (s : State) : Option Cause := if faultFlag s then some .busFault else none

end Sys2Proof.Machine
end

