-- ==== Sys2Proof/Machine/Operands.lean ====
section
/-!
DEFINITION. The operand forms of the data word (R66): what a write takes from `D` and how a read's `u32` is formed.
-/

namespace Sys2Proof.Machine

/-- The color of a PIX write: `r = D[23:16]`, `g = D[15:8]`, `b = D[7:0]`; `D[31:24]` is ignored (R66, R90). -/
def colorOfWord (d : Word) : Color := ⟨d.extractLsb' 16 8, d.extractLsb' 8 8, d.extractLsb' 0 8⟩

/-- The word of a color: `r << 16 | g << 8 | b`, bits 31:24 zero (R47, R89). -/
def wordOfColor (p : Color) : Word := (0#8 ++ p.r ++ p.g ++ p.b : BitVec (8 + 8 + 8 + 8))

/-- `factor = D[7:0]` of WR_BRIGHT and `byte = D[7:0]` of WR_ENC; `D[31:8]` is ignored (R66). -/
def lowByte (d : Word) : Byte := d.extractLsb' 0 8

/-- `zext_32` of a byte (R10, R66). -/
def wordOfByte (v : Byte) : Word := v.zeroExtend 32

end Sys2Proof.Machine
end

