-- ==== Sys2Proof/Machine/Ops.lean ====
section
/-!
DEFINITION. The named operations over the arrays and registers: the canonical sparse store, reads and writes of PIX and ENC,
the completion of a host transaction, command acceptance (R126), the start of a frame and of a gap, the taking of the bus
fault (R147) and, beside it, RESET (R165), the one way out of HALTED (R149).
-/

namespace Sys2Proof.Machine

/-! ## The canonical store -/

/-- What index `k` reads as; `d` is what an unlisted index reads as. -/
def Store.read {α : Type} (d : α) : Store α → Nat → α
  | [], _ => d
  | (a, v) :: m, k => if k = a then v else Store.read d m k

/-- Index `k` written with `v`; writing `d` removes the entry. -/
def Store.write {α : Type} [DecidableEq α] (d : α) : Store α → Nat → α → Store α
  | [], k, v => if v = d then [] else [(k, v)]
  | (a, w) :: m, k, v =>
    if k < a then (if v = d then (a, w) :: m else (k, v) :: (a, w) :: m)
    else if k = a then (if v = d then m else (k, v) :: m)
    else (a, w) :: Store.write d m k v

/-- The store that holds the values of a list at `base`, `base + 1`, … -/
def Store.ofList {α : Type} [DecidableEq α] (d : α) : Nat → List α → Store α
  | _, [] => []
  | base, v :: vs => if v = d then Store.ofList d (base + 1) vs else (base, v) :: Store.ofList d (base + 1) vs

/-- Canonical from `lo` on: indices at least `lo`, strictly rising, no entry equal to `d`. -/
def Store.wfFrom {α : Type} [DecidableEq α] (d : α) : Nat → Store α → Bool
  | _, [] => true
  | lo, (a, v) :: m => decide (lo ≤ a) && decide (v ≠ d) && Store.wfFrom d (a + 1) m

/-- Every listed index is below `n`. -/
def Store.below {α : Type} (n : Nat) : Store α → Bool
  | [] => true
  | (a, _) :: m => decide (a < n) && Store.below n m

/-- What an unlisted PIX index holds: the reset contents (R35). -/
def pixUnlisted : Color := ⟨0x00#8, 0x00#8, 0x00#8⟩

/-- What an unlisted ENC index holds: the reset contents (R35). -/
def encUnlisted : Byte := 0x00#8

/-- The canonical form of ENC. -/
def Memory.wf (m : Memory) : Bool := Store.wfFrom encUnlisted 0 m

/-- The canonical form of PIX. -/
def pixWf (m : Store Color) : Bool := Store.wfFrom pixUnlisted 0 m

/-! ## PIX and ENC -/

/-- `PIX[i]` (R23). -/
def State.pixAt (s : State) (i : Nat) : Color := Store.read pixUnlisted s.pix i

/-- `ENC[k]` (R24). -/
def State.encAt (s : State) (k : Nat) : Byte := Store.read encUnlisted s.enc k

/-- `PIX[i] <- p` (R90): no effect for `i ≥ N`. -/
def State.writePix (s : State) (i : Nat) (p : Color) : State :=
  if i < s.cfg.n then { s with pix := Store.write pixUnlisted s.pix i p } else s

/-- `ENC[k] <- v` (R92): no effect for `k ≥ LEN`. -/
def State.writeEnc (s : State) (k : Nat) (v : Byte) : State :=
  if k < s.cfg.len then { s with enc := Store.write encUnlisted s.enc k v } else s

/-- `BRIGHT <- v` (R83). -/
def State.writeBright (s : State) (v : Byte) : State := { s with bright := v }

/-- The word of the PIX window at index `i` (R47, R89). -/
def State.pixWord (s : State) (i : Nat) : Word := if i < s.cfg.n then wordOfColor (s.pixAt i) else 0#32

/-- The word of the ENC window at index `k` (R48, R91). -/
def State.encWord (s : State) (k : Nat) : Word := if k < s.cfg.len then wordOfByte (s.encAt k) else 0#32

/-! ## Host transactions (R53, R80, R126) -/

/-- The pending transaction completes: the host goes on to its next one. -/
def State.complete (s : State) : State := { s with host := s.host.tail }

/-- The pending read completes and returns `v` to the host (R80). -/
def State.reply (s : State) (v : Word) : State := { s with rdata := v, host := s.host.tail }

/-- A transaction that holds has no step: the state stays as it is and the transaction stays pending (R11, R12). -/
def hold (s : State) : Result := .next s

/-- Command acceptance (R126): performed in IDLE, held in BUSY and GAP, dropped in HALTED. -/
def accept (body : State → State) (s : State) : Result :=
  match s.phase with
  | .idle => .next (body s).complete
  | .busy => hold s
  | .gap => hold s
  | .halted => .next s.complete

/-! ## Frames and gaps -/

/-- `ENC[k] <- stream(PIX, BRIGHT)[k]` for every `k < LEN` (R103, R111). -/
def State.loadStream (s : State) : State :=
  { s with enc := Store.ofList encUnlisted 0 (encodeStream s.cfg s.pixAt s.bright) }

/-- A frame starts at its first slot (R128, R129). -/
def State.startFrame (s : State) : State := { s with pos := 0, slot := 0, phase := .busy }

/-- `GAPCNT <- RESET_TICKS; PHASE <- GAP` (R122, R130). -/
def State.startGap (s : State) : State := { s with gapcnt := s.cfg.resetTicks, phase := .gap }

/-! ## The draw, the bus fault and RESET -/

/-- `DOUT <- x`, x the next draw (R120, R124, D21). -/
def State.drawLine (s : State) : State := { s with dout := Config.freeLevel s.draws, draws := s.draws + 1 }

/-- Fault entry (R147): FAULT and HALTED recorded, DOUT a draw; POS and SLOT keep the slot that was not sent. -/
def State.takeBusFault (s : State) : State := { s.drawLine with fault := true, phase := .halted }

/-- Taking a fault: what each cause records (R150). -/
def State.takeFault (cause : Cause) (s : State) : State :=
  match cause with
  | .busFault => s.takeBusFault

/-- RESET (R165): every element of R20 takes its value from R35; the host's side stays (a held transaction stays pending). -/
def State.applyReset (s : State) : State :=
  { s with
    pix := [], enc := [], bright := 0xFF#8, phase := .gap, fault := false, pos := 0, slot := 0
    gapcnt := s.cfg.resetTicks, dout := false }

end Sys2Proof.Machine
end

