-- ==== Sys2Proof/Machine/Device.lean ====
section
/-!
DEFINITION. The device tick (spec 42_transmitter.md R120 to R124): one slot of the line, by phase.
-/

namespace Sys2Proof.Machine

/-- The bit of the current slot: `ENC[POS][7 - SLOT]` (R97, R122). -/
def State.currentBit (s : State) : Bool := (s.encAt s.pos).getLsbD (7 - s.slot.val)

/-- The last slot of the frame is on the line: POS, SLOT <- 0 and the gap starts (R122). -/
def State.endFrame (s : State) : State := { s with pos := 0, slot := 0 }.startGap

/-- The position after the current slot (R22, R122). -/
def State.advance (s : State) : State :=
  if s.slot.val < 7 then { s with slot := s.slot + 1 }
  else if s.pos + 1 < s.cfg.len then { s with slot := 0, pos := s.pos + 1 }
  else s.endFrame

/-- The shift step of a healthy bus (R122). -/
def State.shiftOut (s : State) : State := { s with dout := s.currentBit }.advance

/-- The tick in IDLE (R121). -/
def tickIdle (s : State) : Result := .next { s with dout := false }

/-- The cause a BUSY tick raises (R122, R150). -/
def busyRaises (busFault : Bool) : Option Cause := if busFault then some .busFault else none

/-- The tick in BUSY (R122): a fault wins over the shift and over the end of the frame (R154). -/
def tickBusy (busFault : Bool) (s : State) : Result :=
  match busyRaises busFault with
  | some cause => .next (s.takeFault cause)
  | none => if s.pos < s.cfg.len then .next s.shiftOut else .fault .streamPosition

/-- The tick in GAP (R123): GAPCNT is tested after the decrement. -/
def tickGap (s : State) : Result :=
  match s.gapcnt with
  | 0 => .fault .gapCounter
  | 1 => .next { s with dout := false, gapcnt := 0, phase := .idle }
  | g + 1 => .next { s with dout := false, gapcnt := g }

/-- The tick in HALTED (R124). -/
def tickHalted (s : State) : Result := .next s.drawLine

/-- The cause a tick raises: only a BUSY tick raises one (R145). -/
def tickRaises (busFault : Bool) (s : State) : Option Cause :=
  match s.phase with
  | .idle => none
  | .busy => busyRaises busFault
  | .gap => none
  | .halted => none

/-- The device's one step (R120); BUS_FAULT is read only in BUSY (R121, R123, R146). -/
def tick (busFault : Bool) (s : State) : Result :=
  match s.phase with
  | .idle => tickIdle s
  | .busy => tickBusy busFault s
  | .gap => tickGap s
  | .halted => tickHalted s

end Sys2Proof.Machine
end

