-- ==== Sys2Proof/Machine/Command.lean ====
section
/-!
DEFINITION. The meanings of the five CTRL commands (spec 41_protocol_encoder.md R112, 42_transmitter.md R126 to R130): a body
under the one acceptance rule.
-/

namespace Sys2Proof.Machine

/-- NOP (R127): the body is empty. -/
def execNop (s : State) : Result := accept id s

/-- SEND (R128): scale, encode into ENC, start the frame. -/
def execSend (s : State) : Result := accept (fun s => s.loadStream.startFrame) s

/-- ENCODE (R112): scale and encode into ENC; PHASE stays IDLE. -/
def execEncode (s : State) : Result := accept State.loadStream s

/-- SEND_STREAM (R129): start the frame with ENC as it stands. -/
def execSendStream (s : State) : Result := accept State.startFrame s

/-- IDLE_GAP (R130): one reset gap. -/
def execIdleGap (s : State) : Result := accept State.startGap s

end Sys2Proof.Machine
end

