-- ==== Sys2Proof/Machine/HostAccess.lean ====
section
/-!
DEFINITION. The meanings of the 14 rows that are not commands (spec 40_host_access.md R80 to R94). Each is one atomic step; a
read returns a `u32` to the host; only WR_ENC can hold.
-/

namespace Sys2Proof.Machine

/-- RD_STATUS (R81). -/
def execRdStatus (s : State) : Result := .next (s.reply (statusWord s))

/-- RD_BRIGHT (R82). -/
def execRdBright (s : State) : Result := .next (s.reply (wordOfByte s.bright))

/-- WR_BRIGHT (R83): accepted in every phase. -/
def execWrBright (d : Word) (s : State) : Result := .next (s.writeBright (lowByte d)).complete

/-- RD_PARAM_N (R84). -/
def execRdParamN (s : State) : Result := .next (s.reply s.cfg.paramN)

/-- RD_PARAM_HDR (R85). -/
def execRdParamHdr (s : State) : Result := .next (s.reply s.cfg.paramHdr)

/-- RD_PARAM_LEN (R86). -/
def execRdParamLen (s : State) : Result := .next (s.reply s.cfg.paramLen)

/-- RD_PARAM_CFG (R87). -/
def execRdParamCfg (s : State) : Result := .next (s.reply s.cfg.paramCfg)

/-- RD_PARAM_GAP (R88). -/
def execRdParamGap (s : State) : Result := .next (s.reply s.cfg.paramGap)

/-- RD_PIX (R89): 0 for an index that is not below N. -/
def execRdPix (i : BitVec 10) (s : State) : Result := .next (s.reply (s.pixWord i.toNat))

/-- WR_PIX (R90): in every phase; ignored for an index that is not below N. -/
def execWrPix (i : BitVec 10) (d : Word) (s : State) : Result := .next (s.writePix i.toNat (colorOfWord d)).complete

/-- RD_ENC (R91): 0 for an index that is not below LEN. -/
def execRdEnc (k : BitVec 15) (s : State) : Result := .next (s.reply (s.encWord k.toNat))

/-- WR_ENC (R92): the hold in BUSY is decided before the index. -/
def execWrEnc (k : BitVec 15) (d : Word) (s : State) : Result :=
  match s.phase with
  | .busy => hold s
  | .idle => .next (s.writeEnc k.toNat (lowByte d)).complete
  | .gap => .next (s.writeEnc k.toNat (lowByte d)).complete
  | .halted => .next (s.writeEnc k.toNat (lowByte d)).complete

/-- RD_ZERO (R93): the offset selects nothing. -/
def execRdZero (_a : Offset) (s : State) : Result := .next (s.reply 0#32)

/-- WR_IGNORED (R94): no effect; the transaction completes. -/
def execWrIgnored (_a : Offset) (_d : Word) (s : State) : Result := .next s.complete

end Sys2Proof.Machine
end

