-- ==== Sys2Proof/Machine/Dispatch.lean ====
section
/-! DEFINITION. The meaning of each instruction: one arm per row of the opcode map (R72). -/

namespace Sys2Proof.Machine

def exec (i : Instr) (s : State) : Host.Outcome State Fault Refusal :=
  match i with
  | .nop => Sys2Proof.Machine.execNop s
  | .send => Sys2Proof.Machine.execSend s
  | .encode => Sys2Proof.Machine.execEncode s
  | .sendStream => Sys2Proof.Machine.execSendStream s
  | .idleGap => Sys2Proof.Machine.execIdleGap s
  | .rdStatus => Sys2Proof.Machine.execRdStatus s
  | .rdBright => Sys2Proof.Machine.execRdBright s
  | .wrBright d => Sys2Proof.Machine.execWrBright d s
  | .rdParamN => Sys2Proof.Machine.execRdParamN s
  | .rdParamHdr => Sys2Proof.Machine.execRdParamHdr s
  | .rdParamLen => Sys2Proof.Machine.execRdParamLen s
  | .rdParamCfg => Sys2Proof.Machine.execRdParamCfg s
  | .rdParamGap => Sys2Proof.Machine.execRdParamGap s
  | .rdPix n => Sys2Proof.Machine.execRdPix n s
  | .wrPix n d => Sys2Proof.Machine.execWrPix n d s
  | .rdEnc k => Sys2Proof.Machine.execRdEnc k s
  | .wrEnc k d => Sys2Proof.Machine.execWrEnc k d s
  | .rdZero a => Sys2Proof.Machine.execRdZero a s
  | .wrIgnored a d => Sys2Proof.Machine.execWrIgnored a d s

end Sys2Proof.Machine
end

