-- ==== Sys2Proof/Machine/Fetch.lean ====
section
/-!
DEFINITION. Which agent moves next, and what the host's pending transaction is: the interleaving of R5 and R57 as plain data,
free where the script gives no turn. A round of the free schedule ends with a tick, so ticks are weakly fair (R138).
-/

namespace Sys2Proof.Machine

/-- The round of the free schedule begins: the host's software may issue accesses, and `turns` are to come. -/
def State.beginRound (s : State) (turns : List Turn) : State :=
  { s with host := s.host ++ Config.freeIssue s.rounds, script := turns, rounds := s.rounds + 1 }

/-- The next turn, and the state with that turn taken. -/
def State.takeTurn (s : State) : Turn × State :=
  match s.script with
  | t :: rest => (t, { s with script := rest })
  | [] =>
    match Config.freeTurns s.rounds with
    | [] => (.tick (Config.freeBusFault s.rounds), s.beginRound [])
    | t :: rest => (t, s.beginRound (rest ++ [.tick (Config.freeBusFault s.rounds)]))

/-- The pending transaction, transcribed and decoded; none when the host has none. -/
def State.pending (s : State) : Option (Except DecodeError Instr) :=
  match s.host with
  | [] => none
  | a :: _ => some a.decode

/-- The refusal of R152 for each reason of the transcriber and the decoder. -/
def refusalOf : DecodeError → Refusal
  | .misaligned => .misaligned
  | .readDataNonzero => .readDataNonzero
  | .ctrlReservedBits => .ctrlReservedBits
  | .reservedCommand => .reservedCommand
  | .badWidth => .badWidth
  | .noRow => .noRow

/-- The word placed as the host's pending transaction, and the next turn given to the host. -/
def State.placeWord (s : State) (t : Txn) : State :=
  { s with host := Access.ofTxn t :: s.host, script := .host :: s.script }

end Sys2Proof.Machine
end

