-- ==== Sys2Proof/Machine/Step.lean ====
section
/-!
DEFINITION. One step of the model (R5, R12): the next turn is taken, and the agent whose turn it is makes its one atomic step.
-/

namespace Sys2Proof.Machine

/-- The host's turn: the pending transaction is performed, held or dropped by its meaning; without one the host does nothing;
a word without a meaning refuses the run (R152). -/
def hostTurn (s : State) : Host.Outcome State Fault Refusal :=
  match s.pending with
  | none => .next s
  | some (.ok i) => exec i s
  | some (.error e) => .refused (refusalOf e)

/-- The step of the agent whose turn it is. -/
def turnStep (t : Turn) (s : State) : Host.Outcome State Fault Refusal :=
  match t with
  | .host => hostTurn s
  | .tick busFault => tick busFault s
  | .reset => .next s.applyReset

/-- One step; a configuration outside R6 has no machine (R7, R152 BadConfig). -/
def step (s : State) : Host.Outcome State Fault Refusal :=
  if s.cfg.legal then turnStep s.takeTurn.1 s.takeTurn.2 else .refused .badConfig

/-- The state in which the very next step runs the transaction whose bits are `w` (log entry 7). -/
def State.withFetchWord (s : State) (nbits w : Nat) : State := s.placeWord (BitVec.ofNat 51 (w % 2 ^ nbits))

end Sys2Proof.Machine
end

