-- ==== Sys2Proof/Machine/AddressMap.lean ====
section
/-!
DEFINITION. The address map of the host window (spec 20_memory.md R45 to R49) written as the spec's table of offset ranges: a
second reading of the decoder and of the host's reads, for statements that the two agree (95_test_vectors.md section 2.1).
-/

namespace Sys2Proof.Machine

/-- The rows of the map (R46); the windows carry their index. -/
inductive Region where
  | ctrl
  | status
  | bright
  | paramN
  | paramHdr
  | paramLen
  | paramCfg
  | paramGap
  | reserved
  | pix (i : Nat)
  | enc (k : Nat)
  deriving DecidableEq, Repr

/-- The row of the map an offset falls into (R46, R55). -/
def regionOf (a : Offset) : Region :=
  if a.toNat < 0x00004 then .ctrl
  else if a.toNat < 0x00008 then .status
  else if a.toNat < 0x0000C then .bright
  else if a.toNat < 0x00010 then .paramN
  else if a.toNat < 0x00014 then .paramHdr
  else if a.toNat < 0x00018 then .paramLen
  else if a.toNat < 0x0001C then .paramCfg
  else if a.toNat < 0x00020 then .paramGap
  else if a.toNat < 0x01000 then .reserved
  else if a.toNat < 0x02000 then .pix ((a.toNat - 0x01000) / 4)
  else if a.toNat < 0x20000 then .reserved
  else .enc ((a.toNat - 0x20000) / 4)

/-- What a 32-bit read at an aligned offset returns (R28, R29, R33, R46 to R49). -/
def State.windowRead (s : State) (a : Offset) : Word :=
  match regionOf a with
  | .ctrl => 0#32
  | .status => statusWord s
  | .bright => wordOfByte s.bright
  | .paramN => s.cfg.paramN
  | .paramHdr => s.cfg.paramHdr
  | .paramLen => s.cfg.paramLen
  | .paramCfg => s.cfg.paramCfg
  | .paramGap => s.cfg.paramGap
  | .reserved => 0#32
  | .pix i => s.pixWord i
  | .enc k => s.encWord k

/-- The read transaction of an offset's row (R46, R72). -/
def readInstr (a : Offset) : Instr :=
  match regionOf a with
  | .ctrl => .rdZero a
  | .status => .rdStatus
  | .bright => .rdBright
  | .paramN => .rdParamN
  | .paramHdr => .rdParamHdr
  | .paramLen => .rdParamLen
  | .paramCfg => .rdParamCfg
  | .paramGap => .rdParamGap
  | .reserved => .rdZero a
  | .pix i => .rdPix (BitVec.ofNat 10 i)
  | .enc k => .rdEnc (BitVec.ofNat 15 k)

/-- The command of a CTRL write whose reserved bits are 0 (R70); codes 5 to 15 are reserved (R71 (a)). -/
def commandInstr (d : Word) : Except DecodeError Instr :=
  if d = 0#32 then .ok .nop
  else if d = 1#32 then .ok .send
  else if d = 2#32 then .ok .encode
  else if d = 3#32 then .ok .sendStream
  else if d = 4#32 then .ok .idleGap
  else if d.toNat < 16 then .error .reservedCommand
  else .error .ctrlReservedBits

/-- The write transaction of an offset's row (R46, R72). -/
def writeInstr (a : Offset) (d : Word) : Except DecodeError Instr :=
  match regionOf a with
  | .ctrl => commandInstr d
  | .status => .ok (.wrIgnored a d)
  | .bright => .ok (.wrBright d)
  | .paramN => .ok (.wrIgnored a d)
  | .paramHdr => .ok (.wrIgnored a d)
  | .paramLen => .ok (.wrIgnored a d)
  | .paramCfg => .ok (.wrIgnored a d)
  | .paramGap => .ok (.wrIgnored a d)
  | .reserved => .ok (.wrIgnored a d)
  | .pix i => .ok (.wrPix (BitVec.ofNat 10 i) d)
  | .enc k => .ok (.wrEnc (BitVec.ofNat 15 k) d)

/-- The decoder by address range (95_test_vectors.md section 2.1). -/
def decodeByRange (w : Bool) (a : Offset) (d : Word) : Except DecodeError Instr :=
  if a.toNat % 4 ≠ 0 then .error .misaligned
  else if w then writeInstr a d
  else if d = 0#32 then .ok (readInstr a)
  else .error .readDataNonzero

end Sys2Proof.Machine
end

