-- ==== Sys2Proof/Machine/HostSyntax.lean ====
section
/-!
DEFINITION. The host's assembly syntax and its pseudo-instructions (spec 30_encoding.md R77, R78), as the accesses they stand
for. LEDTX gives loops no meaning: the host polls, so a wait that ends at its `polls`-th read is that many reads, and what
the host tests after each is a predicate on the word returned.
-/

namespace Sys2Proof

/-- `<loc>` of R77. -/
inductive Loc where
  | ctrl
  | status
  | bright
  | paramN
  | paramHdr
  | paramLen
  | paramCfg
  | paramGap
  | pix (i : BitVec 10)
  | enc (k : BitVec 15)
  | raw (a : Offset)
  deriving DecidableEq, Repr

/-- The command mnemonics of R70. -/
inductive Command where
  | nop
  | send
  | encode
  | sendStream
  | idleGap
  deriving DecidableEq, Repr

/-- A statement of R77; a command mnemonic may stand alone. -/
inductive Stmt where
  | wr (l : Loc) (v : Word)
  | rd (l : Loc)
  | cmd (c : Command)
  deriving DecidableEq, Repr

/-- The offset of a location (R46, R77). -/
def Loc.offset : Loc → Offset
  | .ctrl => 0x00000#18
  | .status => 0x00004#18
  | .bright => 0x00008#18
  | .paramN => 0x0000C#18
  | .paramHdr => 0x00010#18
  | .paramLen => 0x00014#18
  | .paramCfg => 0x00018#18
  | .paramGap => 0x0001C#18
  | .pix i => pixOffset i
  | .enc k => encOffset k
  | .raw a => a

/-- The command code (R70). -/
def Command.code : Command → Word
  | .nop => 0#32
  | .send => 1#32
  | .encode => 2#32
  | .sendStream => 3#32
  | .idleGap => 4#32

/-- The access a statement stands for (R77). -/
def Stmt.access : Stmt → Access
  | .wr l v => ⟨true, 4, l.offset, v⟩
  | .rd l => ⟨false, 4, l.offset, 0#32⟩
  | .cmd c => ⟨true, 4, Loc.ctrl.offset, c.code⟩

/-- `until (s & 0x3) = 0` of WAIT_IDLE (R78). -/
def waitIdleDone (s : Word) : Bool := s &&& 0x3#32 == 0#32

/-- `until (s & 0x1) = 0` of WAIT_NOT_BUSY (R78). -/
def waitNotBusyDone (s : Word) : Bool := s &&& 0x1#32 == 0#32

/-- `ok := (s & 0x4) = 0` of SEND_WAIT and SEND_STREAM_WAIT (R78). -/
def sendOk (s : Word) : Bool := s &&& 0x4#32 == 0#32

/-- WAIT_IDLE or WAIT_NOT_BUSY that ends at its `polls`-th poll (R78). -/
def pollStmts (polls : Nat) : List Stmt := List.replicate polls (.rd .status)

/-- SEND_WAIT whose wait ends at its `polls`-th poll (R78). -/
def sendWaitStmts (polls : Nat) : List Stmt := .wr .ctrl (Command.code .send) :: pollStmts polls ++ [.rd .status]

/-- SEND_STREAM_WAIT whose wait ends at its `polls`-th poll (R78). -/
def sendStreamWaitStmts (polls : Nat) : List Stmt :=
  .wr .ctrl (Command.code .sendStream) :: pollStmts polls ++ [.rd .status]

/-- LOAD_FRAME (R78): one PIX write a color word, from index `i` on. -/
def loadFrameStmts : Nat → List Word → List Stmt
  | _, [] => []
  | i, c :: cs => .wr (.pix (BitVec.ofNat 10 i)) c :: loadFrameStmts (i + 1) cs

end Sys2Proof
end

