-- ==== Sys2Proof/Safety.lean ====
section
/-!
DEFINITION. The terms in which statements speak of runs: the invariants of R34, the line trace (R32), a healthy bus (R146),
and the end of a run (R178).
-/

namespace Sys2Proof

open Sys2Proof.Machine

/-- The invariants of R34 (a) to (e) with the ranges of R30 and R31, the legal configuration (R6), and the model's canonical
form of PIX and ENC with no entry beyond N and LEN (R23, R24). -/
structure Inv (s : State) : Prop where
  /-- R6: the configuration is legal. -/
  legal : s.cfg.legal = true
  /-- R30, R34 (a): POS is an index of ENC. -/
  posRange : s.pos < s.cfg.len
  /-- R31: GAPCNT lies in [0, RESET_TICKS]. -/
  gapRange : s.gapcnt ≤ s.cfg.resetTicks
  /-- R34 (b). -/
  gapRuns : s.phase = .gap → 1 ≤ s.gapcnt
  /-- R34 (c). -/
  idleClean : s.phase = .idle → s.gapcnt = 0 ∧ s.pos = 0 ∧ s.slot = 0
  /-- R34 (d). -/
  gapClean : s.phase = .gap → s.pos = 0 ∧ s.slot = 0
  /-- R34 (e). -/
  faultHalted : s.fault = true ↔ s.phase = .halted
  /-- PIX is canonical (R23). -/
  pixCanonical : pixWf s.pix = true
  /-- PIX has no entry beyond N (R23). -/
  pixBounded : Store.below s.cfg.n s.pix = true
  /-- ENC is canonical (R24). -/
  encCanonical : Memory.wf s.enc = true
  /-- ENC has no entry beyond LEN (R24). -/
  encBounded : Store.below s.cfg.len s.enc = true

/-- An access the decoder gives a meaning (R67). -/
def Access.accepted (a : Access) : Bool :=
  match a.decode with
  | .ok _ => true
  | .error _ => false

/-- A turn of a run without RESET. -/
def noReset : Turn → Bool
  | .host => true
  | .tick _ => true
  | .reset => false

/-- A turn of a run without RESET in which the bus does not fail: "bus healthy" (R146). -/
def healthy : Turn → Bool
  | .host => true
  | .tick busFault => !busFault
  | .reset => false

/-- The turn is a device tick. -/
def isTick : Turn → Bool
  | .host => false
  | .tick _ => true
  | .reset => false

/-- `k` steps, stopping at the first fault or refusal: `core.run`, typed by the model's own names. -/
def run : Nat → State → Result
  | 0, s => .next s
  | k + 1, s =>
    match step s with
    | .next t => run k t
    | .fault f => .fault f
    | .refused r => .refused r

/-- The ticks of `k` steps from `s`, each with the phase it was performed in and the level of DOUT after it. -/
def tickTrace : Nat → State → List (Phase × Bool)
  | 0, _ => []
  | k + 1, s =>
    match step s with
    | .next t => if isTick s.takeTurn.1 then (s.phase, t.dout) :: tickTrace k t else tickTrace k t
    | .fault _ => []
    | .refused _ => []

/-- The line trace of `k` steps: the DOUT values over the device ticks (R32). -/
def lineTrace (k : Nat) (s : State) : List Bool := (tickTrace k s).map Prod.snd

/-- A state in which a run may have ended well: the host has performed its last transaction, PHASE = IDLE, FAULT = 0
(R178 (a) to (c)). -/
def endState (s : State) : Bool := s.host.isEmpty && s.phase == .idle && !s.fault

/-- The run of `k` steps has ended well (R178): nothing was refused, HALTED was never reached, and it ends in such a state. -/
def endsWell : Nat → State → Bool
  | 0, s => endState s
  | k + 1, s =>
    match step s with
    | .next t => !(s.phase == .halted) && endsWell k t
    | .fault _ => false
    | .refused _ => false

/-- The run of `k` steps reaches HALTED: it has faulted (R178). -/
def reachesHalted : Nat → State → Bool
  | 0, s => s.phase == .halted
  | k + 1, s =>
    s.phase == .halted ||
      match step s with
      | .next t => reachesHalted k t
      | .fault _ => false
      | .refused _ => false

/-- No turn taken in the run of `k` steps is a RESET. -/
def resetFree : Nat → State → Bool
  | 0, _ => true
  | k + 1, s =>
    noReset s.takeTurn.1 &&
      match step s with
      | .next t => resetFree k t
      | .fault _ => true
      | .refused _ => true

/-- The run of `k` steps has a refused transaction (R178). -/
def runRefused : Nat → State → Bool
  | 0, _ => false
  | k + 1, s =>
    match step s with
    | .next t => runRefused k t
    | .fault _ => false
    | .refused _ => true

end Sys2Proof
end

