-- ==== Sys2Proof/Certificates/Slice0/Obligations.lean ====
section
/-!
DEFINITION. The statements for the provers, each from a numbered rule of spec/.
-/

open Sys2Proof Sys2Proof.Machine

/-! ## The transaction word and the decoder (30_encoding.md) -/

/-- R65: the word is `W * 2^50 + A * 2^32 + D`, its fields are read back from it, and it is determined by them. -/
def Obligations.TransactionWordLayout : Prop :=
  (∀ (w : Bool) (a : Offset) (d : Word),
    (mkTxn w a d).toNat = (if w then 1 else 0) * 2 ^ 50 + a.toNat * 2 ^ 32 + d.toNat ∧
      txnWrite (mkTxn w a d) = w ∧ txnOffset (mkTxn w a d) = a ∧ txnData (mkTxn w a d) = d) ∧
    ∀ t : Txn, mkTxn (txnWrite t) (txnOffset t) (txnData t) = t

/-- A sanity statement: words written out in 95_test_vectors.md section 2.1, at least one for each family, decode as that
table says, and the refused ones are refused with the reason it names. -/
def Obligations.SpecWordsDecode : Prop :=
  decode 0x4000000000000#51 = .ok .nop ∧ decode 0x4000000000001#51 = .ok .send ∧
    decode 0x4000000000002#51 = .ok .encode ∧ decode 0x4000000000003#51 = .ok .sendStream ∧
    decode 0x4000000000004#51 = .ok .idleGap ∧ decode 0x0000400000000#51 = .ok .rdStatus ∧
    decode 0x40008000001FF#51 = .ok (.wrBright 0x1FF#32) ∧ decode 0x0001400000000#51 = .ok .rdParamLen ∧
    decode 0x01FFC00000000#51 = .ok (.rdPix 1023#10) ∧
    decode 0x41FFCFF123456#51 = .ok (.wrPix 1023#10 0xFF123456#32) ∧
    decode 0x3FFFC00000000#51 = .ok (.rdEnc 32767#15) ∧
    decode 0x7FFFC000001EE#51 = .ok (.wrEnc 32767#15 0x1EE#32) ∧
    decode 0x0200000000000#51 = .ok (.rdZero 0x02000#18) ∧
    decode 0x5FFFC00000007#51 = .ok (.wrIgnored 0x1FFFC#18 7#32) ∧
    decode 0x4000000000005#51 = .error .reservedCommand ∧ decode 0x4000080000001#51 = .error .ctrlReservedBits ∧
    decode 0x0000400000001#51 = .error .readDataNonzero ∧ decode 0x6000200000000#51 = .error .misaligned

/-- R67: the four refusals in order, then the first row in table order that matches; some row always does. The catch-alls
match every aligned read (whose data is 0) and every aligned write, and no word belongs to two of the rows before them. -/
def Obligations.DecodeStepsInOrder : Prop :=
  (∀ t : Txn,
    if (txnOffset t).toNat % 4 ≠ 0 then decode t = .error .misaligned
    else if txnWrite t = false ∧ txnData t ≠ 0#32 then decode t = .error .readDataNonzero
    else if txnWrite t = true ∧ txnOffset t = 0#18 ∧ (txnData t).toNat / 16 ≠ 0 then decode t = .error .ctrlReservedBits
    else if txnWrite t = true ∧ txnOffset t = 0#18 ∧ 5 ≤ (txnData t).toNat % 16 then decode t = .error .reservedCommand
    else ∃ before row after, opcodeTable = before ++ row :: after ∧ t &&& row.mask = row.pattern ∧
      (∀ r ∈ before, t &&& r.mask ≠ r.pattern) ∧ decode t = .ok (row.build t)) ∧
    (∀ t : Txn, (txnOffset t).toNat % 4 = 0 → (txnWrite t = false → txnData t = 0#32) →
      ∃ row ∈ catchAllRows, t &&& row.mask = row.pattern) ∧
    List.Pairwise (fun p q : OpcodeRow => ∀ t : Txn, ¬ (t &&& p.mask = p.pattern ∧ t &&& q.mask = q.pattern)) exactRows

/-- R66, R72: no bit of an encoding is dropped: the word of a well-formed instruction decodes to it. -/
def Obligations.DecodeOfEncode : Prop := ∀ i : Instr, i.wf = true → decode (encode i) = .ok i

/-- R67, R72: each word that decodes is the word of the one well-formed instruction it decodes to. -/
def Obligations.EncodeOfDecode : Prop := ∀ (t : Txn) (i : Instr), decode t = .ok i → i.wf = true ∧ encode i = t

/-- 95_test_vectors.md section 2.1: the table-driven decoder and the decoder by address range (R46) agree on every word. -/
def Obligations.DecodeAgreesWithAddressMap : Prop :=
  ∀ (w : Bool) (a : Offset) (d : Word), decode (mkTxn w a d) = decodeByRange w a d

/-! ## The step (00_scope.md, 60_exceptions.md) -/

/-- R5, R53, R57: on the host's turn a pending access that decodes to an instruction `i`, which is then well-formed, is
exactly `exec i` at the state whose turn has been taken. -/
def Obligations.StepRunsDecodedInstruction : Prop :=
  ∀ (s : State) (a : Access) (q : List Access) (rest : List Turn) (i : Instr),
    s.cfg.legal = true → s.script = .host :: rest → s.host = a :: q → a.width = 4 →
    decode (mkTxn a.write a.offset a.data) = .ok i →
    i.wf = true ∧ step s = exec i { s with script := rest }

/-- R5, R120, R166: the other turns. A tick is the device's step and RESET is the atomic reset; each takes its turn from the
script and no more. The third clause is the model's choice and no rule's (log entry 3, DESIGN CHOICE): the turn of a host
without a pending transaction changes nothing else. -/
def Obligations.StepPerformsTheTurn : Prop :=
  ∀ (s : State) (rest : List Turn), s.cfg.legal = true →
    (∀ bf, s.script = .tick bf :: rest → step s = tick bf { s with script := rest }) ∧
      (s.script = .reset :: rest → step s = .next { s with script := rest }.applyReset) ∧
      (s.script = .host :: rest → s.host = [] → step s = .next { s with script := rest })

/-- R67, R71, R152: what the host's turn refuses, the checks of R67 in their order; nothing else is refused. That BadWidth is
tested before them is the model's order and no rule's (log entry 10, DEDUCED). -/
def Obligations.RefusalsInOrder : Prop :=
  ∀ (s : State) (a : Access) (q : List Access) (rest : List Turn),
    s.cfg.legal = true → s.script = .host :: rest → s.host = a :: q →
    if a.width ≠ 4 then step s = .refused .badWidth
    else if a.offset.toNat % 4 ≠ 0 then step s = .refused .misaligned
    else if a.write = false ∧ a.data ≠ 0#32 then step s = .refused .readDataNonzero
    else if a.write = true ∧ a.offset = 0#18 ∧ 16 ≤ a.data.toNat then step s = .refused .ctrlReservedBits
    else if a.write = true ∧ a.offset = 0#18 ∧ 5 ≤ a.data.toNat then step s = .refused .reservedCommand
    else ∃ t, step s = .next t

/-- R7: a configuration that breaks a constraint of R6 has no machine: every step of it is refused. -/
def Obligations.IllegalConfigurationRefused : Prop :=
  ∀ s : State,
    ¬ ((1 ≤ s.cfg.n ∧ s.cfg.n ≤ 1024) ∧ s.cfg.headerLen ≤ 4096 ∧
        (s.cfg.order = [.red, .green, .blue] ∨ s.cfg.order = [.green, .red, .blue]) ∧ 1 ≤ s.cfg.tSlot ∧
        1 ≤ s.cfg.resetMin ∧ 1 ≤ s.cfg.resetTicks ∧ s.cfg.resetMin ≤ s.cfg.resetTicks * s.cfg.tSlot) →
    step s = .refused .badConfig

/-- R120, R138: where the script gives no turn, the round drawn in its place ends with a device tick, whatever the free
values are (log entry 2: the model's own schedule), so the device ticks again after finitely many steps. -/
def Obligations.FreeRoundEndsWithTick : Prop :=
  ∀ s : State, s.script = [] →
    ∃ turns bf, s.takeTurn.1 :: s.takeTurn.2.script = turns ++ [Turn.tick bf] ∧ s.takeTurn.2.rounds = s.rounds + 1

/-! ## Host access (40_host_access.md) -/

/-- R81: RD_STATUS returns BUSY, GAP and FAULT in bits 0, 1 and 2 and changes nothing else; where R34 holds that word is 0x4
in HALTED and 0x1 just after SEND or SEND_STREAM is accepted; it is 0x2 just after reset. -/
def Obligations.ReadStatusReturnsFlags : Prop :=
  decode 0x0000400000000#51 = .ok .rdStatus ∧
    ∀ s : State, ∃ v : Word,
      exec .rdStatus s = .next { s with rdata := v, host := s.host.tail } ∧
        v = (if s.phase = .busy then 1#32 else 0#32) ||| (if s.phase = .gap then 2#32 else 0#32) |||
          ((if s.fault then 1#32 else 0#32) <<< 2) ∧
        (Inv s → s.phase = .halted → v = 0x4#32) ∧
        (Inv s → s.phase = .idle → ∃ t u, (exec .send s = .next t ∧ exec .sendStream s = .next u) ∧
          statusWord t = 0x1#32 ∧ statusWord u = 0x1#32) ∧
        statusWord s.applyReset = 0x2#32 ∧ v = statusWord s

/-- R28, R34 (e): the four values STATUS can take where the invariants hold; its three bits are zero together exactly in
IDLE. -/
def Obligations.StatusValues : Prop :=
  ∀ s : State, Inv s →
    (s.phase = .idle ↔ statusWord s = 0#32) ∧ (s.phase = .busy ↔ statusWord s = 1#32) ∧
      (s.phase = .gap ↔ statusWord s = 2#32) ∧ (s.phase = .halted ↔ statusWord s = 4#32)

/-- R82: RD_BRIGHT returns the zero-extended factor and changes nothing else; after reset it returns 0xFF. -/
def Obligations.ReadBrightReturnsFactor : Prop :=
  decode 0x0000800000000#51 = .ok .rdBright ∧
    (∀ s : State, ∃ v : Word,
      exec .rdBright s = .next { s with rdata := v, host := s.host.tail } ∧ v.toNat = s.bright.toNat) ∧
    ∀ s : State, ∃ t, exec .rdBright s.applyReset = .next t ∧ t.rdata = 0xFF#32

/-- R83: WR_BRIGHT stores D[7:0] in every phase and changes nothing else; D[31:8] is ignored. -/
def Obligations.WriteBrightStoresLowByte : Prop :=
  (∀ d : Word, decode (mkTxn true 0x00008#18 d) = .ok (.wrBright d)) ∧
    ∀ (d : Word) (s : State),
      exec (.wrBright d) s = .next { s with bright := BitVec.ofNat 8 (d.toNat % 256), host := s.host.tail }

/-- R84, R85, R86, R87: the reads of PARAM_N, PARAM_HDR, PARAM_LEN and PARAM_CFG return the configuration's values and change
nothing else; in a legal configuration N is in [1, 1024] and LEN in [12, 16384], and no value is truncated. -/
def Obligations.ReadParamsReturnConfiguration : Prop :=
  (decode 0x0000C00000000#51 = .ok .rdParamN ∧ decode 0x0001000000000#51 = .ok .rdParamHdr ∧
      decode 0x0001400000000#51 = .ok .rdParamLen ∧ decode 0x0001800000000#51 = .ok .rdParamCfg) ∧
    ∀ s : State, s.cfg.legal = true →
      ∃ n hdr len cfg : Word,
        (exec .rdParamN s = .next { s with rdata := n, host := s.host.tail } ∧ n.toNat = s.cfg.n ∧ 1 ≤ n.toNat ∧
            n.toNat ≤ 1024) ∧
          (exec .rdParamHdr s = .next { s with rdata := hdr, host := s.host.tail } ∧ hdr.toNat = s.cfg.headerLen) ∧
          (exec .rdParamLen s = .next { s with rdata := len, host := s.host.tail } ∧
            len.toNat = s.cfg.headerLen + 12 * s.cfg.n ∧ 12 ≤ len.toNat ∧ len.toNat ≤ 16384) ∧
          (exec .rdParamCfg s = .next { s with rdata := cfg, host := s.host.tail } ∧
            cfg = if s.cfg.order = [.green, .red, .blue] then 1#32 else 0#32)

/-- R88: RD_PARAM_GAP completes, changes nothing but the value returned, and returns RESET_TICKS wherever that is a `u32`
(R6 bounds it by nothing; beyond, the value is the free value of log entry 6); in every legal configuration the value is at
least 1. -/
def Obligations.ReadParamGapReturnsResetTicks : Prop :=
  decode 0x0001C00000000#51 = .ok .rdParamGap ∧
    ∀ s : State, ∃ v : Word, exec .rdParamGap s = .next { s with rdata := v, host := s.host.tail } ∧
      (s.cfg.resetTicks < 2 ^ 32 → v.toNat = s.cfg.resetTicks) ∧ (s.cfg.legal = true → 1 ≤ v.toNat)

/-- R89: RD_PIX returns `r << 16 | g << 8 | b` of PIX[i] for i < N and 0 beyond, and changes nothing else. -/
def Obligations.ReadPixReturnsColor : Prop :=
  (∀ i : BitVec 10, decode (mkTxn false (BitVec.ofNat 18 (0x01000 + 4 * i.toNat)) 0#32) = .ok (.rdPix i)) ∧
    ∀ (i : BitVec 10) (s : State), ∃ v : Word,
      exec (.rdPix i) s = .next { s with rdata := v, host := s.host.tail } ∧
        v.toNat = if i.toNat < s.cfg.n then
          (s.pixAt i.toNat).r.toNat * 2 ^ 16 + (s.pixAt i.toNat).g.toNat * 2 ^ 8 + (s.pixAt i.toNat).b.toNat else 0

/-- R90: in every phase WR_PIX stores {D[23:16], D[15:8], D[7:0]} in PIX[i] for i < N, leaves every other pixel alone, has
no effect beyond N, and changes nothing else. -/
def Obligations.WritePixStoresColor : Prop :=
  (∀ (i : BitVec 10) (d : Word),
    decode (mkTxn true (BitVec.ofNat 18 (0x01000 + 4 * i.toNat)) d) = .ok (.wrPix i d)) ∧
    ∀ (i : BitVec 10) (d : Word) (s : State), Inv s → ∃ t,
      exec (.wrPix i d) s = .next t ∧ t = { s with pix := t.pix, host := s.host.tail } ∧
        (∀ j, t.pixAt j = if j = i.toNat ∧ i.toNat < s.cfg.n then
          { r := BitVec.ofNat 8 (d.toNat / 2 ^ 16), g := BitVec.ofNat 8 (d.toNat / 2 ^ 8), b := BitVec.ofNat 8 d.toNat }
          else s.pixAt j) ∧
        (¬ i.toNat < s.cfg.n → t.pix = s.pix)

/-- R91: RD_ENC returns the zero-extended ENC[k] for k < LEN and 0 beyond, in every phase, and changes nothing else. -/
def Obligations.ReadEncReturnsByte : Prop :=
  (∀ k : BitVec 15, decode (mkTxn false (BitVec.ofNat 18 (0x20000 + 4 * k.toNat)) 0#32) = .ok (.rdEnc k)) ∧
    ∀ (k : BitVec 15) (s : State), ∃ v : Word,
      exec (.rdEnc k) s = .next { s with rdata := v, host := s.host.tail } ∧
        v.toNat = if k.toNat < s.cfg.headerLen + 12 * s.cfg.n then (s.encAt k.toNat).toNat else 0

/-- R92: WR_ENC holds in BUSY, whatever the index; in every other phase it stores D[7:0] in ENC[k] for k < LEN, leaves every
other byte alone, has no effect beyond LEN, and changes nothing else. -/
def Obligations.WriteEncHoldsOrStores : Prop :=
  (∀ (k : BitVec 15) (d : Word),
    decode (mkTxn true (BitVec.ofNat 18 (0x20000 + 4 * k.toNat)) d) = .ok (.wrEnc k d)) ∧
    ∀ (k : BitVec 15) (d : Word) (s : State), Inv s →
      (s.phase = .busy → exec (.wrEnc k d) s = .next s) ∧
        (s.phase ≠ .busy → ∃ t,
          exec (.wrEnc k d) s = .next t ∧ t = { s with enc := t.enc, host := s.host.tail } ∧
            (∀ j, t.encAt j = if j = k.toNat ∧ k.toNat < s.cfg.headerLen + 12 * s.cfg.n then
              BitVec.ofNat 8 d.toNat else s.encAt j) ∧
            (¬ k.toNat < s.cfg.headerLen + 12 * s.cfg.n → t.enc = s.enc))

/-- R93: RD_ZERO is every aligned read of CTRL and of the reserved ranges; it returns 0 and changes nothing else. -/
def Obligations.ReadZeroReturnsZero : Prop :=
  (∀ a : Offset, a.toNat % 4 = 0 →
    (a = 0#18 ∨ (0x00020 ≤ a.toNat ∧ a.toNat ≤ 0x00FFF) ∨ (0x02000 ≤ a.toNat ∧ a.toNat ≤ 0x1FFFF)) →
    decode (mkTxn false a 0#32) = .ok (.rdZero a)) ∧
    ∀ (a : Offset) (s : State), exec (.rdZero a) s = .next { s with rdata := 0#32, host := s.host.tail }

/-- R94: WR_IGNORED is every aligned write of STATUS, the PARAM registers and the reserved ranges; it completes and changes
nothing, FAULT included. -/
def Obligations.WriteIgnoredChangesNothing : Prop :=
  (∀ (a : Offset) (d : Word), a.toNat % 4 = 0 →
    (a = 0x00004#18 ∨ (0x0000C ≤ a.toNat ∧ a.toNat ≤ 0x0001C) ∨ (0x00020 ≤ a.toNat ∧ a.toNat ≤ 0x00FFF) ∨
      (0x02000 ≤ a.toNat ∧ a.toNat ≤ 0x1FFFF)) →
    decode (mkTxn true a d) = .ok (.wrIgnored a d)) ∧
    ∀ (a : Offset) (d : Word) (s : State), exec (.wrIgnored a d) s = .next { s with host := s.host.tail }

/-- R80: the 14 rows that are not commands never fault and never change PHASE, FAULT, POS, SLOT, GAPCNT or DOUT; each writes
at most one element of {PIX, ENC, BRIGHT}; a transaction that does not complete is WR_ENC. -/
def Obligations.HostAccessFrame : Prop :=
  ∀ (i : Instr) (s : State), i ∉ [Instr.nop, .send, .encode, .sendStream, .idleGap] →
    ∃ t, exec i s = .next t ∧
      (t.phase = s.phase ∧ t.fault = s.fault ∧ t.pos = s.pos ∧ t.slot = s.slot ∧ t.gapcnt = s.gapcnt ∧
        t.dout = s.dout) ∧
      ((t.pix = s.pix ∧ t.enc = s.enc) ∨ (t.pix = s.pix ∧ t.bright = s.bright) ∨ (t.enc = s.enc ∧ t.bright = s.bright)) ∧
      (t.host = s.host.tail ∨ (t = s ∧ s.phase = .busy ∧ ∃ k d, i = .wrEnc k d))

/-- R46 to R49, R54: a 32-bit read at any aligned offset completes, returns what the address map says, and changes nothing
else. -/
def Obligations.ReadsFollowAddressMap : Prop :=
  ∀ (s : State) (a : Offset), a.toNat % 4 = 0 →
    ∃ i, decode (mkTxn false a 0#32) = .ok i ∧
      exec i s = .next { s with rdata := s.windowRead a, host := s.host.tail }

/-- R47, R48, R57: a word of the PIX or ENC window read back after it is written: D with bits 31:24 dropped for i < N, D[7:0]
for k < LEN (outside BUSY, where WR_ENC holds), and 0 beyond. -/
def Obligations.WindowReadBack : Prop :=
  (∀ (i : BitVec 10) (d : Word) (s : State), Inv s →
    ∃ t u, exec (.wrPix i d) s = .next t ∧ exec (.rdPix i) t = .next u ∧
      u.rdata = if i.toNat < s.cfg.n then d &&& 0x00FFFFFF#32 else 0#32) ∧
    ∀ (k : BitVec 15) (d : Word) (s : State), Inv s → s.phase ≠ .busy →
      ∃ t u, exec (.wrEnc k d) s = .next t ∧ exec (.rdEnc k) t = .next u ∧
        u.rdata = if k.toNat < s.cfg.len then d &&& 0x000000FF#32 else 0#32

/-! ## Commands (41_protocol_encoder.md R112, 42_transmitter.md R126 to R130) -/

/-- R126: each of the five commands holds in BUSY and GAP, is dropped in HALTED, and completes in IDLE. -/
def Obligations.CommandAcceptance : Prop :=
  ∀ (c : Instr) (s : State), c ∈ [Instr.nop, .send, .encode, .sendStream, .idleGap] →
    match s.phase with
    | .idle => ∃ t, exec c s = .next t ∧ t.host = s.host.tail
    | .busy => exec c s = .next s
    | .gap => exec c s = .next s
    | .halted => exec c s = .next { s with host := s.host.tail }

/-- R127: NOP accepted in IDLE completes and changes nothing else. -/
def Obligations.NopCompletesInIdle : Prop :=
  decode 0x4000000000000#51 = .ok .nop ∧
    ∀ s : State, s.phase = .idle → exec .nop s = .next { s with host := s.host.tail }

/-- R128, R103, R111: SEND accepted in IDLE writes every ENC[k], k < LEN, with stream(PIX, BRIGHT), puts POS and SLOT at 0,
makes PHASE BUSY, and changes nothing else; RD_STATUS just after returns BUSY. -/
def Obligations.SendEncodesAndStarts : Prop :=
  decode 0x4000000000001#51 = .ok .send ∧
    ∀ s : State, Inv s → s.phase = .idle → ∃ t,
      exec .send s = .next t ∧
        t = { s with enc := t.enc, pos := 0, slot := 0, phase := .busy, host := s.host.tail } ∧
        (∀ k, k < s.cfg.len → (encodeStream s.cfg s.pixAt s.bright)[k]? = some (t.encAt k)) ∧
        (∀ k, s.cfg.len ≤ k → t.encAt k = 0x00#8) ∧ statusWord t = 1#32

/-- R112, R103, R111: ENCODE accepted in IDLE writes every ENC[k], k < LEN, with stream(PIX, BRIGHT) and changes nothing
else; PHASE stays IDLE. -/
def Obligations.EncodePrerenders : Prop :=
  decode 0x4000000000002#51 = .ok .encode ∧
    ∀ s : State, Inv s → s.phase = .idle → ∃ t,
      exec .encode s = .next t ∧ t = { s with enc := t.enc, host := s.host.tail } ∧
        (∀ k, k < s.cfg.len → (encodeStream s.cfg s.pixAt s.bright)[k]? = some (t.encAt k)) ∧
        (∀ k, s.cfg.len ≤ k → t.encAt k = 0x00#8) ∧ statusWord t = statusWord s

/-- R129: SEND_STREAM accepted in IDLE starts the frame with ENC as it stands and changes nothing else. -/
def Obligations.SendStreamStartsFrame : Prop :=
  decode 0x4000000000003#51 = .ok .sendStream ∧
    ∀ s : State, s.phase = .idle →
      exec .sendStream s = .next { s with pos := 0, slot := 0, phase := .busy, host := s.host.tail }

/-- R130: IDLE_GAP accepted in IDLE loads GAPCNT with RESET_TICKS, makes PHASE GAP, and changes nothing else. -/
def Obligations.IdleGapStartsGap : Prop :=
  decode 0x4000000000004#51 = .ok .idleGap ∧
    ∀ s : State, s.phase = .idle →
      exec .idleGap s = .next { s with gapcnt := s.cfg.resetTicks, phase := .gap, host := s.host.tail }

/-- R174: ENCODE and a later SEND_STREAM leave the same state as one SEND, whatever PIX and BRIGHT are written in between:
the same ENC and the same start of the frame. -/
def Obligations.EncodeThenSendStreamIsSend : Prop :=
  ∀ (s : State) (p : Store Color) (b : Byte), s.phase = .idle →
    ∃ m u, exec .encode s = .next m ∧ exec .send s = .next u ∧
      exec .sendStream { m with pix := p, bright := b } =
        .next { u with pix := p, bright := b, host := u.host.tail }

/-! ## The device tick and the fault (42_transmitter.md, 60_exceptions.md) -/

/-- R121: the tick in IDLE drives the line low and changes nothing else, whatever BUS_FAULT is. -/
def Obligations.IdleTickDrivesLow : Prop :=
  ∀ (bf : Bool) (s : State), s.phase = .idle → tick bf s = .next { s with dout := false }

/-- R122: the shift step: a bus fault records FAULT and HALTED and keeps the position (DOUT is a draw and is left open);
otherwise DOUT is ENC[POS][7 - SLOT] and the position moves to the next slot, the next byte, or the gap. -/
def Obligations.BusyTickShifts : Prop :=
  ∀ s : State, s.phase = .busy →
    (∃ x n, tick true s = .next { s with fault := true, phase := .halted, dout := x, draws := n }) ∧
      (s.pos < s.cfg.len →
        tick false s = .next
          (if s.slot.val < 7 then { s with dout := (s.encAt s.pos).getLsbD (7 - s.slot.val), slot := s.slot + 1 }
          else if s.pos < s.cfg.len - 1 then
            { s with dout := (s.encAt s.pos).getLsbD (7 - s.slot.val), slot := 0, pos := s.pos + 1 }
          else
            { s with
              dout := (s.encAt s.pos).getLsbD (7 - s.slot.val), slot := 0, pos := 0, phase := .gap
              gapcnt := s.cfg.resetTicks }))

/-- R123: the tick in GAP drives the line low, decrements GAPCNT and leaves GAP when it reaches 0, whatever BUS_FAULT is. -/
def Obligations.GapTickCountsDown : Prop :=
  ∀ (bf : Bool) (s : State), s.phase = .gap → 1 ≤ s.gapcnt →
    tick bf s = .next
      { s with dout := false, gapcnt := s.gapcnt - 1, phase := if s.gapcnt - 1 = 0 then .idle else .gap }

/-- R124, R148, R149: every tick in HALTED completes and changes nothing but DOUT, which is left open (and the model's count
of draws). -/
def Obligations.HaltedTickChangesOnlyLine : Prop :=
  ∀ (bf : Bool) (s : State), s.phase = .halted → ∃ x n, tick bf s = .next { s with dout := x, draws := n }

/-- R58, R63: no tick reads PIX, BRIGHT or the host's side: two states that differ only there stay so, with the same line. -/
def Obligations.TickIgnoresPixAndBright : Prop :=
  ∀ (bf : Bool) (s t : State) (p : Store Color) (b : Byte) (q : List Access) (v : Word), tick bf s = .next t →
    tick bf { s with pix := p, bright := b, host := q, rdata := v } =
      .next { t with pix := p, bright := b, host := q, rdata := v }

/-- R34 (f): after every tick performed in IDLE or GAP the line is low. -/
def Obligations.LineLowOutsideFrame : Prop :=
  ∀ (bf : Bool) (s t : State), tick bf s = .next t → s.phase = .idle ∨ s.phase = .gap → t.dout = false

/-! ## Reset (10_state.md R35, 70_reset_and_hazards.md) -/

/-- R35, R166: the power-on state of every configuration holds the reset values, and State.reset is the power-on state of
the configuration of the test vectors (log entry 1: the model's choice of configuration). -/
def Obligations.PowerOnValues : Prop :=
  (∀ c : Config,
    (∀ i, (State.resetOf c).pixAt i = ⟨0#8, 0#8, 0#8⟩) ∧ (∀ k, (State.resetOf c).encAt k = 0x00#8) ∧
      (State.resetOf c).bright = 0xFF#8 ∧ (State.resetOf c).phase = .gap ∧ (State.resetOf c).fault = false ∧
      (State.resetOf c).pos = 0 ∧ (State.resetOf c).slot = 0 ∧ (State.resetOf c).gapcnt = c.resetTicks ∧
      (State.resetOf c).dout = false ∧ statusWord (State.resetOf c) = 2#32 ∧ (State.resetOf c).cfg = c) ∧
    State.reset = State.resetOf Config.vectors

/-- R165: RESET works from every phase in one step: every element takes its reset value, the configuration stays, and a
transaction held at that moment stays pending on the host side. -/
def Obligations.ResetFromEveryPhase : Prop :=
  ∀ (s : State) (rest : List Turn), s.cfg.legal = true → s.script = .reset :: rest → ∃ t,
    step s = .next t ∧
      (∀ i, t.pixAt i = ⟨0#8, 0#8, 0#8⟩) ∧ (∀ k, t.encAt k = 0x00#8) ∧
      t = { s with
        pix := t.pix, enc := t.enc, bright := 0xFF#8, phase := .gap, fault := false, pos := 0, slot := 0
        gapcnt := s.cfg.resetTicks, dout := false, script := rest } ∧
      t.host = s.host

/-! ## The encoder (41_protocol_encoder.md) -/

/-- R95, R107, R108: scale8 is the truncated quotient, with the laws (a) to (f), and scale applies it to the three
channels. -/
def Obligations.ScaleLaws : Prop :=
  (∀ c f : Byte, (scale8 c f).toNat = c.toNat * f.toNat / 255) ∧
    (∀ (p : Color) (f : Byte), p.scale f = { r := scale8 p.r f, g := scale8 p.g f, b := scale8 p.b f }) ∧
    (∀ c : Byte, scale8 c 255#8 = c ∧ scale8 c 0#8 = 0#8) ∧
    (∀ c f : Byte, (scale8 c f).toNat ≤ c.toNat ∧ (scale8 c f).toNat ≤ 255) ∧
    (∀ c f f' : Byte, f'.toNat ≤ f.toNat → (scale8 c f').toNat ≤ (scale8 c f).toNat) ∧
    (∀ c f : Byte, scale8 c f = scale8 f c) ∧
    (∀ c f : Byte, c.toNat * f.toNat < 255 → scale8 c f = 0#8) ∧
    scale8 128#8 2#8 = 1#8 ∧ scale8 127#8 2#8 = 0#8

/-- R96, R97, R98: enc8(v) has four bytes; byte j of enc8(v) packs the symbols of bits 7-2j and 6-2j, 1110 for a 1 and 1000 for a 0, and is one of
the four PAIR bytes. -/
def Obligations.ChannelEncoding : Prop :=
  ∀ v : Byte, (enc8 v).length = 4 ∧ ∀ j : Nat, j < 4 → ∃ e : Byte, (enc8 v)[j]? = some e ∧
    e = ((if v.getLsbD (7 - 2 * j) then 0b1110#4 else 0b1000#4) ++
      (if v.getLsbD (6 - 2 * j) then 0b1110#4 else 0b1000#4) : BitVec (4 + 4)) ∧
    e ∈ [0x88#8, 0x8E#8, 0xE8#8, 0xEE#8]

/-- R99, R110: the stream of a legal configuration has exactly HEADER_LEN + 12 * N bytes, whatever PIX and the factor. -/
def Obligations.StreamHasLenBytes : Prop :=
  ∀ (c : Config) (pix : Nat → Color) (f : Byte), c.legal = true →
    (encodeStream c pix f).length = c.headerLen + 12 * c.n ∧ c.len = c.headerLen + 12 * c.n

/-- R104: the closed form of stream byte k is the byte of R103. -/
def Obligations.StreamClosedForm : Prop :=
  ∀ (c : Config) (pix : Nat → Color) (f : Byte) (k : Nat), c.legal = true → k < c.len →
    (encodeStream c pix f)[k]? = some (streamByte c pix f k)

/-- R105: bit n of the ch-th wire channel of pixel i occupies the 4 slots from 8*HEADER_LEN + 96*i + 32*ch + 4*(7-n) on,
and those slots show its symbol. -/
def Obligations.SymbolPositionOnLine : Prop :=
  ∀ (c : Config) (pix : Nat → Color) (f : Byte) (i ch n j : Nat), c.legal = true → i < c.n → ch < 3 → n < 8 → j < 4 →
    ∃ byte v : Byte,
      (encodeStream c pix f)[(8 * c.headerLen + 96 * i + 32 * ch + 4 * (7 - n) + j) / 8]? = some byte ∧
        (wire c.order ((pix i).scale f))[ch]? = some v ∧
        byte.getLsbD (7 - (8 * c.headerLen + 96 * i + 32 * ch + 4 * (7 - n) + j) % 8) =
          (if v.getLsbD n then 0b1110#4 else 0b1000#4).getLsbD (3 - j)

/-- R106: dec4 knows the two symbols only, dec8 undoes enc8, and the stream at factor 255 decodes after the header to the colors it was made from. -/
def Obligations.StreamRoundTrip : Prop :=
  (dec4 0xE#4 = some true ∧ dec4 0x8#4 = some false ∧ ∀ x : BitVec 4, x ≠ 0xE#4 → x ≠ 0x8#4 → dec4 x = none) ∧
    (∀ v e0 e1 e2 e3 : Byte, enc8 v = [e0, e1, e2, e3] → dec8 e0 e1 e2 e3 = some v) ∧
    ∀ (c : Config) (pix : Nat → Color), c.legal = true →
      decodeStream c (encodeStream c pix 255#8) = some ((List.range c.n).map pix)

/-! ## Invariants and whole-machine rules -/

/-- R34: the invariants hold in the power-on state of every legal configuration. -/
def Obligations.PowerOnSatisfiesInvariants : Prop :=
  (∀ c : Config, c.legal = true → Inv (State.resetOf c)) ∧ Inv State.reset

/-- R34: every step from a state in which the invariants hold leads to a state in which they hold: R34 (a) to (e), the
ranges of R30 and R31, and the canonical form of PIX and ENC. -/
def Obligations.StepKeepsInvariants : Prop := ∀ s t : State, Inv s → step s = .next t → Inv t

/-- Where the invariants of R34 hold, no step stops with a fault. The two stops excluded, and that BusFault (R145) is a next
state and not the fault outcome of R12, are the model's own (log entry 8, DEDUCED); no rule names these stops. -/
def Obligations.InvariantsExcludeStops : Prop := ∀ (s : State) (f : Fault), Inv s → step s ≠ .fault f

/-- R6, R20: no step changes the configuration. -/
def Obligations.ConfigurationIsFixed : Prop := ∀ s t : State, step s = .next t → t.cfg = s.cfg

/-- R27, R36, R145, R147, R150: BusFault, code 1, is the only cause. Exactly a BUSY tick with BUS_FAULT = 1 raises it, and
that tick records FAULT = 1 (code 1 is what it stands for) and PHASE = HALTED, the position, the arrays and BRIGHT kept. FAULT
is sticky: only that tick sets it, and only RESET clears it. -/
def Obligations.FaultIsSticky : Prop :=
  (∀ c : Cause, c = .busFault ∧ c.code = 1) ∧
    (∀ (bf : Bool) (s : State), tickRaises bf s = if s.phase = .busy ∧ bf = true then some .busFault else none) ∧
    (∀ (bf : Bool) (s : State) (c : Cause), tickRaises bf s = some c → ∃ t,
      tick bf s = .next t ∧ t.fault = true ∧ t.phase = .halted ∧ t.recordedCause.map Cause.code = some c.code ∧
        t = { s with fault := t.fault, phase := t.phase, dout := t.dout, draws := t.draws }) ∧
    ∀ s t : State, step s = .next t →
      (s.fault = false → t.fault = true → ∃ bf, s.takeTurn.1 = .tick bf ∧ tickRaises bf s = some .busFault) ∧
        (s.fault = true → t.fault = false → s.takeTurn.1 = .reset)

/-- R133: the phase transition table: every step takes one row of it. -/
def Obligations.PhaseTransitionTable : Prop :=
  ∀ s t : State, Inv s → step s = .next t →
    match s.takeTurn.1 with
    | .reset => t.phase = .gap
    | .tick bf =>
      (match s.phase with
      | .idle => t.phase = .idle
      | .busy =>
        t.phase = if bf then .halted else if s.pos + 1 = s.cfg.len ∧ s.slot = 7 then .gap else .busy
      | .gap => t.phase = if s.gapcnt = 1 then .idle else .gap
      | .halted => t.phase = .halted)
    | .host =>
      (match s.takeTurn.2.pending with
      | some (.ok .send) => t.phase = if s.phase = .idle then .busy else s.phase
      | some (.ok .sendStream) => t.phase = if s.phase = .idle then .busy else s.phase
      | some (.ok .idleGap) => t.phase = if s.phase = .idle then .gap else s.phase
      | _ => t.phase = s.phase)

/-- R148, R149: HALTED is terminal: no step but RESET leaves it, clears FAULT, or moves the position kept there. -/
def Obligations.HaltedIsTerminal : Prop :=
  ∀ s t : State, s.phase = .halted → step s = .next t → s.takeTurn.1 ≠ .reset →
    t.phase = .halted ∧ t.fault = s.fault ∧ t.pos = s.pos ∧ t.slot = s.slot ∧ t.gapcnt = s.gapcnt

/-- R58, R92: the bytes of a frame stay fixed while they are shifted: no step but RESET writes ENC in BUSY. -/
def Obligations.EncFixedWhileBusy : Prop :=
  ∀ s t : State, s.phase = .busy → step s = .next t → s.takeTurn.1 ≠ .reset → t.enc = s.enc

/-- R125, R132: the frame trace. After SEND or SEND_STREAM is accepted, with no RESET and a healthy bus, the next 8*LEN ticks
are BUSY ticks that put E on the line most significant bit first and leave E as it is, the next RESET_TICKS ticks are low
GAP ticks, and then PHASE = IDLE, whatever host steps fall between the ticks. -/
def Obligations.FrameTrace : Prop :=
  ∀ (s₀ s : State) (frame gap rest : List Turn),
    Inv s₀ → s₀.phase = .idle → (exec .send s₀ = .next s ∨ exec .sendStream s₀ = .next s) →
    (∀ a ∈ s.host, a.accepted = true) → s.script = frame ++ gap ++ rest →
    (∀ u ∈ frame, healthy u = true) → frame.countP isTick = 8 * s.cfg.len → frame.getLast? = some (.tick false) →
    (∀ u ∈ gap, noReset u = true) → gap.countP isTick = s.cfg.resetTicks → (∃ bf, gap.getLast? = some (.tick bf)) →
    ∃ m t,
      run frame.length s = .next m ∧
        tickTrace frame.length s =
          (List.range (8 * s.cfg.len)).map (fun n => (Phase.busy, (s.encAt (n / 8)).getLsbD (7 - n % 8))) ∧
        m.enc = s.enc ∧
        run gap.length m = .next t ∧
        tickTrace gap.length m = List.replicate s.cfg.resetTicks (Phase.gap, false) ∧
        t.phase = .idle ∧ t.fault = false

/-- R131, R167: reset-gap enforcement. From any state in GAP, a run without RESET that is in BUSY at its end has first
performed GAPCNT ticks, all in GAP and all low: no frame starts before the gap is over. -/
def Obligations.ResetGapEnforced : Prop :=
  ∀ (s t : State) (turns rest : List Turn),
    s.phase = .gap → s.script = turns ++ rest → (∀ u ∈ turns, noReset u = true) →
    run turns.length s = .next t → t.phase = .busy →
    ∃ later, tickTrace turns.length s = List.replicate s.gapcnt (Phase.gap, false) ++ later

/-- R126, R79, R120: a hold ends. With a command pending, from every phase but HALTED, on a healthy bus, PHASE = IDLE is
reached within 8*LEN + RESET_TICKS ticks, however many host turns fall between them and try the command; it is not lost (it is
still pending there, and so is what the host has queued after it), and it is performed at a host step in that state. -/
def Obligations.HoldEndsInTime : Prop :=
  ∀ (s : State) (a : Access) (q : List Access) (c : Instr) (turns rest : List Turn),
    Inv s → s.phase ≠ .halted →
    s.host = a :: q → a.decode = .ok c → c ∈ [Instr.nop, .send, .encode, .sendStream, .idleGap] →
    s.script = turns ++ rest → (∀ u ∈ turns, healthy u = true) →
    turns.countP isTick = 8 * s.cfg.len + s.cfg.resetTicks →
    ∃ n t u, n ≤ turns.length ∧ run n s = .next t ∧ t.phase = .idle ∧ t.host = a :: q ∧
      t.script = turns.drop n ++ rest ∧ exec c t = .next u ∧ u.host = q

/-- R178: a run that reaches HALTED is never a good end, whatever the host does after. A run without RESET whose last state
satisfies (a) to (c) (the host's last transaction performed, PHASE = IDLE, FAULT = 0) was in HALTED at no step of it, and so
has ended well. -/
def Obligations.EndedWellIsClean : Prop :=
  ∀ (k : Nat) (s t : State),
    run k s = .next t → resetFree k s = true → t.host = [] → t.phase = .idle → t.fault = false →
    (∀ (j : Nat) (m : State), j ≤ k → run j s = .next m → m.phase ≠ .halted) ∧ endsWell k s = true

/-- R78, R134: what the host's polls test: WAIT_IDLE ends exactly outside BUSY and GAP, WAIT_NOT_BUSY exactly outside BUSY,
and `ok` tells success from failure. -/
def Obligations.PollConditions : Prop :=
  ∀ s : State,
    (waitIdleDone (statusWord s) = true ↔ s.phase ≠ .busy ∧ s.phase ≠ .gap) ∧
      (waitNotBusyDone (statusWord s) = true ↔ s.phase ≠ .busy) ∧ (sendOk (statusWord s) = true ↔ s.fault = false)
end

