-- ==== Sys2Proof/Laws/Decode.lean ====
section
/-!
SUPPORT. The laws of the transaction word (R65): its fields, that it is determined by them, and how a mask acts on them.
-/

namespace Sys2Proof

@[simp] theorem txnWrite_mkTxn (w : Bool) (a : Offset) (d : Word) : txnWrite (mkTxn w a d) = w := by
  unfold txnWrite mkTxn
  simp only [BitVec.getLsbD_append, BitVec.getLsbD_ofBool]
  simp

@[simp] theorem txnData_mkTxn (w : Bool) (a : Offset) (d : Word) : txnData (mkTxn w a d) = d := by
  unfold txnData mkTxn
  apply BitVec.eq_of_getLsbD_eq
  intro i hi
  simp only [BitVec.getLsbD_extractLsb', BitVec.getLsbD_append]
  simp [hi]

@[simp] theorem txnOffset_mkTxn (w : Bool) (a : Offset) (d : Word) : txnOffset (mkTxn w a d) = a := by
  unfold txnOffset mkTxn
  apply BitVec.eq_of_getLsbD_eq
  intro i hi
  simp only [BitVec.getLsbD_extractLsb', BitVec.getLsbD_append]
  simp [hi]

/-- A word is the word of its fields. -/
theorem mkTxn_fields (t : Txn) : mkTxn (txnWrite t) (txnOffset t) (txnData t) = t := by
  unfold txnWrite txnOffset txnData mkTxn
  apply BitVec.eq_of_getLsbD_eq
  intro i hi
  simp only [BitVec.getLsbD_append, BitVec.getLsbD_ofBool, BitVec.getLsbD_extractLsb']
  by_cases h1 : i < 32
  · simp [h1]
  · by_cases h2 : i < 50
    · have : i - 32 < 18 := by omega
      simp [h1, this, show 32 + (i - 32) = i by omega]
    · have : ¬ i - 32 < 18 := by omega
      have e : i = 50 := by omega
      subst e
      simp

/-- The word is determined by its fields (R65). -/
theorem mkTxn_inj {w w' : Bool} {a a' : Offset} {d d' : Word} :
    mkTxn w a d = mkTxn w' a' d' ↔ w = w' ∧ a = a' ∧ d = d' := by
  constructor
  · intro h
    refine ⟨?_, ?_, ?_⟩
    · simpa using congrArg txnWrite h
    · simpa using congrArg txnOffset h
    · simpa using congrArg txnData h
  · rintro ⟨rfl, rfl, rfl⟩
    rfl

/-- A mask acts field by field. -/
theorem mkTxn_and (w w' : Bool) (a a' : Offset) (d d' : Word) :
    mkTxn w a d &&& mkTxn w' a' d' = mkTxn (w && w') (a &&& a') (d &&& d') := by
  unfold mkTxn
  apply BitVec.eq_of_getLsbD_eq
  intro i hi
  simp only [BitVec.getLsbD_and, BitVec.getLsbD_append, BitVec.getLsbD_ofBool]
  by_cases h1 : i < 32
  · simp [h1]
  · by_cases h2 : i - 32 < 18
    · simp [h1, h2]
    · by_cases h3 : i - 32 - 18 = 0 <;> simp [h1, h2, h3]

/-- A word matches a row when its fields match the row's fields. -/
theorem mkTxn_and_beq (w w' w'' : Bool) (a a' a'' : Offset) (d d' d'' : Word) :
    (mkTxn w a d &&& mkTxn w' a' d' == mkTxn w'' a'' d'') =
      ((w && w') == w'' && (a &&& a' == a'') && (d &&& d' == d'')) := by
  rw [mkTxn_and, Bool.eq_iff_iff]
  simp [mkTxn_inj, and_assoc]

/-- The access written as a word is transcribed to that word (R51, R65). -/
theorem transcribe_ofTxn (t : Txn) : (Access.ofTxn t).transcribe = .ok t := by
  simp [Access.transcribe, Access.ofTxn, mkTxn_fields]

theorem decode_ofTxn (t : Txn) : (Access.ofTxn t).decode = decode t := by
  simp [Access.decode, transcribe_ofTxn]

/-! ## The masks of the opcode map in terms of the fields -/

theorem and_ones_offset (a : Offset) : a &&& 0x3FFFF#18 = a := by
  rw [show (0x3FFFF#18) = BitVec.allOnes 18 by decide, BitVec.and_allOnes]

theorem and_ones_word (d : Word) : d &&& 0xFFFFFFFF#32 = d := by
  rw [show (0xFFFFFFFF#32) = BitVec.allOnes 32 by decide, BitVec.and_allOnes]

/-- A field of `n` ones at bit `k` in the mask compares that field (`x &&& m = p` read at the field). -/
theorem field_of_mask {w : Nat} {x m p : BitVec w} {k n : Nat} (hm : m.extractLsb' k n = BitVec.allOnes n)
    (h : x &&& m = p) : x.extractLsb' k n = p.extractLsb' k n := by
  rw [← h, BitVec.extractLsb'_and, hm, BitVec.and_allOnes]

/-- One bit of `x &&& m = p`, from the field that holds it. -/
theorem bit_of_field {w : Nat} {x : BitVec w} {k n : Nat} {v : BitVec n} (h : x.extractLsb' k n = v) {i : Nat}
    (hk : k ≤ i) (hi : i < k + n) : x.getLsbD i = v.getLsbD (i - k) := by
  rw [← h, BitVec.getLsbD_extractLsb', show k + (i - k) = i by omega]
  simp [show i - k < n by omega]

/-- The rows of the PIX window: `A[17:12] = 1` and `A[1:0] = 0` (R47, R72). -/
theorem pix_mask (a : Offset) :
    (a &&& 0x3F003#18 == 0x01000#18) = (a.extractLsb' 12 6 == 1#6 && alignedOffset a) := by
  rw [Bool.eq_iff_iff]
  simp only [alignedOffset, beq_iff_eq, Bool.and_eq_true]
  constructor
  · intro h
    exact ⟨field_of_mask (by decide) h, field_of_mask (by decide) h⟩
  · rintro ⟨hi, lo⟩
    apply BitVec.eq_of_getLsbD_eq
    intro i _
    rw [BitVec.getLsbD_and]
    by_cases hl : i < 2
    · rw [bit_of_field lo (by omega) (by omega)]
      interval_cases i <;> rfl
    · by_cases hm : i < 12
      · rw [show (0x3F003#18).getLsbD i = false by interval_cases i <;> rfl, Bool.and_false]
        interval_cases i <;> rfl
      · rw [bit_of_field hi (by omega) (by omega)]
        interval_cases i <;> rfl

/-- The rows of the ENC window: `A[17] = 1` and `A[1:0] = 0` (R48, R72). -/
theorem enc_mask (a : Offset) :
    (a &&& 0x20003#18 == 0x20000#18) = (a.extractLsb' 17 1 == 1#1 && alignedOffset a) := by
  rw [Bool.eq_iff_iff]
  simp only [alignedOffset, beq_iff_eq, Bool.and_eq_true]
  constructor
  · intro h
    exact ⟨field_of_mask (by decide) h, field_of_mask (by decide) h⟩
  · rintro ⟨hi, lo⟩
    apply BitVec.eq_of_getLsbD_eq
    intro i _
    rw [BitVec.getLsbD_and]
    by_cases hl : i < 2
    · rw [bit_of_field lo (by omega) (by omega)]
      interval_cases i <;> rfl
    · by_cases hm : i < 17
      · rw [show (0x20003#18).getLsbD i = false by interval_cases i <;> rfl, Bool.and_false]
        interval_cases i <;> rfl
      · rw [bit_of_field hi (by omega) (by omega)]
        interval_cases i
        rfl

/-- The catch-all rows: `A[1:0] = 0` (R72). -/
theorem aligned_mask (a : Offset) : (a &&& 0x00003#18 == 0x00000#18) = alignedOffset a := by
  rw [Bool.eq_iff_iff]
  simp only [alignedOffset, beq_iff_eq]
  constructor
  · intro h
    exact field_of_mask (by decide) h
  · intro lo
    apply BitVec.eq_of_getLsbD_eq
    intro i _
    rw [BitVec.getLsbD_and]
    by_cases hl : i < 2
    · rw [bit_of_field lo (by omega) (by omega)]
      interval_cases i <;> rfl
    · rw [show (0x00003#18).getLsbD i = false by interval_cases i <;> rfl, Bool.and_false]
      interval_cases i <;> rfl

/-- A row that fixes every bit: its word only. -/
theorem admits_exact (n : String) (b : Txn → Instr) (w w' : Bool) (a a' : Offset) (d d' : Word) :
    (OpcodeRow.mk n (mkTxn w' a' d') 0x7FFFFFFFFFFFF#51 b).admits (mkTxn w a d) = (w == w' && a == a' && d == d') := by
  rw [OpcodeRow.admits, show (0x7FFFFFFFFFFFF#51 : Txn) = mkTxn true 0x3FFFF#18 0xFFFFFFFF#32 by decide, mkTxn_and_beq,
    and_ones_offset, and_ones_word, Bool.and_true]

theorem admits_wrBright (n : String) (b : Txn → Instr) (w : Bool) (a : Offset) (d : Word) :
    (OpcodeRow.mk n 0x4000800000000#51 0x7FFFF00000000#51 b).admits (mkTxn w a d) = (w && a == 0x00008#18) := by
  rw [OpcodeRow.admits, show (0x7FFFF00000000#51 : Txn) = mkTxn true 0x3FFFF#18 0#32 by decide,
    show (0x4000800000000#51 : Txn) = mkTxn true 0x00008#18 0#32 by decide, mkTxn_and_beq, and_ones_offset]
  simp

theorem admits_rdPix (n : String) (b : Txn → Instr) (w : Bool) (a : Offset) (d : Word) :
    (OpcodeRow.mk n 0x0100000000000#51 0x7F003FFFFFFFF#51 b).admits (mkTxn w a d) =
      (!w && (a.extractLsb' 12 6 == 1#6 && alignedOffset a) && d == 0#32) := by
  rw [OpcodeRow.admits, show (0x7F003FFFFFFFF#51 : Txn) = mkTxn true 0x3F003#18 0xFFFFFFFF#32 by decide,
    show (0x0100000000000#51 : Txn) = mkTxn false 0x01000#18 0#32 by decide, mkTxn_and_beq, and_ones_word, pix_mask]
  simp

theorem admits_wrPix (n : String) (b : Txn → Instr) (w : Bool) (a : Offset) (d : Word) :
    (OpcodeRow.mk n 0x4100000000000#51 0x7F00300000000#51 b).admits (mkTxn w a d) =
      (w && (a.extractLsb' 12 6 == 1#6 && alignedOffset a)) := by
  rw [OpcodeRow.admits, show (0x7F00300000000#51 : Txn) = mkTxn true 0x3F003#18 0#32 by decide,
    show (0x4100000000000#51 : Txn) = mkTxn true 0x01000#18 0#32 by decide, mkTxn_and_beq, pix_mask]
  simp

theorem admits_rdEnc (n : String) (b : Txn → Instr) (w : Bool) (a : Offset) (d : Word) :
    (OpcodeRow.mk n 0x2000000000000#51 0x60003FFFFFFFF#51 b).admits (mkTxn w a d) =
      (!w && (a.extractLsb' 17 1 == 1#1 && alignedOffset a) && d == 0#32) := by
  rw [OpcodeRow.admits, show (0x60003FFFFFFFF#51 : Txn) = mkTxn true 0x20003#18 0xFFFFFFFF#32 by decide,
    show (0x2000000000000#51 : Txn) = mkTxn false 0x20000#18 0#32 by decide, mkTxn_and_beq, and_ones_word, enc_mask]
  simp

theorem admits_wrEnc (n : String) (b : Txn → Instr) (w : Bool) (a : Offset) (d : Word) :
    (OpcodeRow.mk n 0x6000000000000#51 0x6000300000000#51 b).admits (mkTxn w a d) =
      (w && (a.extractLsb' 17 1 == 1#1 && alignedOffset a)) := by
  rw [OpcodeRow.admits, show (0x6000300000000#51 : Txn) = mkTxn true 0x20003#18 0#32 by decide,
    show (0x6000000000000#51 : Txn) = mkTxn true 0x20000#18 0#32 by decide, mkTxn_and_beq, enc_mask]
  simp

theorem admits_rdZero (n : String) (b : Txn → Instr) (w : Bool) (a : Offset) (d : Word) :
    (OpcodeRow.mk n 0x0000000000000#51 0x40003FFFFFFFF#51 b).admits (mkTxn w a d) =
      (!w && alignedOffset a && d == 0#32) := by
  rw [OpcodeRow.admits, show (0x40003FFFFFFFF#51 : Txn) = mkTxn true 0x00003#18 0xFFFFFFFF#32 by decide,
    show (0x0000000000000#51 : Txn) = mkTxn false 0x00000#18 0#32 by decide, mkTxn_and_beq, and_ones_word, aligned_mask]
  simp

theorem admits_wrIgnored (n : String) (b : Txn → Instr) (w : Bool) (a : Offset) (d : Word) :
    (OpcodeRow.mk n 0x4000000000000#51 0x4000300000000#51 b).admits (mkTxn w a d) = (w && alignedOffset a) := by
  rw [OpcodeRow.admits, show (0x4000300000000#51 : Txn) = mkTxn true 0x00003#18 0#32 by decide,
    show (0x4000000000000#51 : Txn) = mkTxn true 0x00000#18 0#32 by decide, mkTxn_and_beq, aligned_mask]
  simp

theorem map_find_cons {α β : Type} (p : α → Bool) (f : α → β) (r : α) (l : List α) :
    ((r :: l).find? p).map f = if p r then some (f r) else (l.find? p).map f := by
  cases h : p r <;> simp [h]

/-- The map read at the fields of a word: the first row that matches, row by row (R67 step 5, R72). -/
theorem find_row (w : Bool) (a : Offset) (d : Word) :
    (opcodeTable.find? (fun r => r.admits (mkTxn w a d))).map (fun r => r.build (mkTxn w a d)) =
      if w && a == 0#18 && d == 0#32 then some .nop
      else if w && a == 0#18 && d == 1#32 then some .send
      else if w && a == 0#18 && d == 2#32 then some .encode
      else if w && a == 0#18 && d == 3#32 then some .sendStream
      else if w && a == 0#18 && d == 4#32 then some .idleGap
      else if !w && a == 0x00004#18 && d == 0#32 then some .rdStatus
      else if !w && a == 0x00008#18 && d == 0#32 then some .rdBright
      else if w && a == 0x00008#18 then some (.wrBright d)
      else if !w && a == 0x0000C#18 && d == 0#32 then some .rdParamN
      else if !w && a == 0x00010#18 && d == 0#32 then some .rdParamHdr
      else if !w && a == 0x00014#18 && d == 0#32 then some .rdParamLen
      else if !w && a == 0x00018#18 && d == 0#32 then some .rdParamCfg
      else if !w && a == 0x0001C#18 && d == 0#32 then some .rdParamGap
      else if !w && (a.extractLsb' 12 6 == 1#6 && alignedOffset a) && d == 0#32 then some (.rdPix (a.extractLsb' 2 10))
      else if w && (a.extractLsb' 12 6 == 1#6 && alignedOffset a) then some (.wrPix (a.extractLsb' 2 10) d)
      else if !w && (a.extractLsb' 17 1 == 1#1 && alignedOffset a) && d == 0#32 then some (.rdEnc (a.extractLsb' 2 15))
      else if w && (a.extractLsb' 17 1 == 1#1 && alignedOffset a) then some (.wrEnc (a.extractLsb' 2 15) d)
      else if !w && alignedOffset a && d == 0#32 then some (.rdZero a)
      else if w && alignedOffset a then some (.wrIgnored a d)
      else none := by
  have e0 : (0x4000000000000#51 : Txn) = mkTxn true 0#18 0#32 := by decide
  have e1 : (0x4000000000001#51 : Txn) = mkTxn true 0#18 1#32 := by decide
  have e2 : (0x4000000000002#51 : Txn) = mkTxn true 0#18 2#32 := by decide
  have e3 : (0x4000000000003#51 : Txn) = mkTxn true 0#18 3#32 := by decide
  have e4 : (0x4000000000004#51 : Txn) = mkTxn true 0#18 4#32 := by decide
  have e6 : (0x0000400000000#51 : Txn) = mkTxn false 0x00004#18 0#32 := by decide
  have e7 : (0x0000800000000#51 : Txn) = mkTxn false 0x00008#18 0#32 := by decide
  have e9 : (0x0000C00000000#51 : Txn) = mkTxn false 0x0000C#18 0#32 := by decide
  have e10 : (0x0001000000000#51 : Txn) = mkTxn false 0x00010#18 0#32 := by decide
  have e11 : (0x0001400000000#51 : Txn) = mkTxn false 0x00014#18 0#32 := by decide
  have e12 : (0x0001800000000#51 : Txn) = mkTxn false 0x00018#18 0#32 := by decide
  have e13 : (0x0001C00000000#51 : Txn) = mkTxn false 0x0001C#18 0#32 := by decide
  simp only [opcodeTable, exactRows, commandRows, registerRows, windowRows, catchAllRows, List.cons_append,
    List.nil_append, map_find_cons, List.find?_nil, Option.map_none, admits_wrBright, admits_rdPix, admits_wrPix,
    admits_rdEnc, admits_wrEnc, admits_rdZero, admits_wrIgnored]
  rw [e0, e1, e2, e3, e4, e6, e7, e9, e10, e11, e12, e13]
  simp only [admits_exact, beq_true, beq_false, fieldPix, fieldEnc, txnOffset_mkTxn, txnData_mkTxn]

/-- The decoder read at the fields of a word (R67). -/
theorem decode_mkTxn (w : Bool) (a : Offset) (d : Word) :
    decode (mkTxn w a d) =
      if alignedOffset a = false then .error .misaligned
      else if w = false ∧ d ≠ 0#32 then .error .readDataNonzero
      else if w = true ∧ a = 0#18 ∧ d.extractLsb' 4 28 ≠ 0#28 then .error .ctrlReservedBits
      else if w = true ∧ a = 0#18 ∧ 5 ≤ (d.extractLsb' 0 4).toNat then .error .reservedCommand
      else match (opcodeTable.find? (fun r => r.admits (mkTxn w a d))).map (fun r => r.build (mkTxn w a d)) with
        | some i => .ok i
        | none => .error .noRow := by
  unfold decode fieldCtrlReserved fieldCmd
  simp only [txnWrite_mkTxn, txnOffset_mkTxn, txnData_mkTxn]
  cases opcodeTable.find? (fun r => r.admits (mkTxn w a d)) <;> rfl

end Sys2Proof
end

