-- ==== Sys2Proof/Laws/Encoder.lean ====
section
/-!
SUPPORT. The laws of the scale stage and the encoder: the legal configurations, the lengths of the lists, and what a stream
byte is (spec 41_protocol_encoder.md).
-/

namespace Sys2Proof

/-! ## Legal configurations (R6) -/

theorem legal_iff (c : Config) : c.legal = true ↔
    (1 ≤ c.n ∧ c.n ≤ 1024) ∧ c.headerLen ≤ 4096 ∧ (c.order = ChannelOrder.rgb ∨ c.order = ChannelOrder.grb) ∧
      1 ≤ c.tSlot ∧ 1 ≤ c.resetMin ∧ 1 ≤ c.resetTicks ∧ c.resetMin ≤ c.resetTicks * c.tSlot := by
  simp [Config.legal, and_assoc]

theorem legal_order {c : Config} (h : c.legal = true) : c.order = ChannelOrder.rgb ∨ c.order = ChannelOrder.grb :=
  ((legal_iff c).mp h).2.2.1

theorem legal_resetTicks {c : Config} (h : c.legal = true) : 1 ≤ c.resetTicks := ((legal_iff c).mp h).2.2.2.2.2.1

/-- A legal stream has at least 12 bytes and fits the ENC window (R48, R86). -/
theorem legal_len {c : Config} (h : c.legal = true) : 12 ≤ c.len ∧ c.len ≤ 16384 := by
  have := (legal_iff c).mp h
  unfold Config.len
  omega

/-! ## PARAM_GAP (R88) -/

theorem atLeastOne_toNat (v : Word) : (atLeastOne v).toNat = v.toNat % (2 ^ 32 - 1) + 1 := by
  unfold atLeastOne
  rw [BitVec.toNat_ofNat, Nat.mod_eq_of_lt]
  omega

/-- What PARAM_GAP returns (R88). -/
theorem paramGap_toNat (c : Config) :
    c.paramGap.toNat =
      if c.resetTicks < 2 ^ 32 then c.resetTicks else (Config.freeParamGap c.resetTicks).toNat % (2 ^ 32 - 1) + 1 := by
  unfold Config.paramGap
  split
  · rename_i h
    rw [BitVec.toNat_ofNat, Nat.mod_eq_of_lt h]
  · exact atLeastOne_toNat _

/-! ## The scale stage (R95, R107) -/

theorem scale8_toNat (c f : Byte) : (scale8 c f).toNat = c.toNat * f.toNat / 255 := by
  have h : c.toNat * f.toNat ≤ 255 * 255 := Nat.mul_le_mul (by omega) (by omega)
  simp only [scale8, BitVec.toNat_ofNat]
  omega

@[simp] theorem scale8_full (c : Byte) : scale8 c 255#8 = c := by
  apply BitVec.eq_of_toNat_eq
  rw [scale8_toNat]
  simp

@[simp] theorem scale_full (p : Color) : p.scale 255#8 = p := by
  simp [Color.scale]

/-! ## Lengths (R98, R99, R101) -/

@[simp] theorem enc8_length (v : Byte) : (enc8 v).length = 4 := rfl

@[simp] theorem wire_length (o : ChannelOrder) (p : Color) : (wire o p).length = o.length := by
  simp [wire]

@[simp] theorem encPix_length (o : ChannelOrder) (p : Color) : (encPix o p).length = 4 * o.length := by
  simp [encPix, List.length_flatMap, Nat.mul_comm]

theorem legal_order_length {c : Config} (h : c.legal = true) : c.order.length = 3 := by
  rcases legal_order h with e | e <;> rw [e] <;> rfl

/-- The stream has exactly LEN bytes (R99, R110). -/
theorem encodeStream_length {c : Config} (h : c.legal = true) (pix : Nat → Color) (f : Byte) :
    (encodeStream c pix f).length = c.len := by
  simp [encodeStream, List.length_flatMap, legal_order_length h, Config.len, Nat.mul_comm]

/-- Element `m * i + j` of a concatenation of `n` lists of length `m` is element `j` of list `i`. -/
theorem getD_flatMap_range {α : Type} (f : Nat → List α) (m : Nat) (hf : ∀ i, (f i).length = m) (d : α) (n : Nat) :
    ∀ i j, i < n → j < m → ((List.range n).flatMap f).getD (m * i + j) d = (f i).getD j d := by
  induction n with
  | zero => intro i j hi; omega
  | succ n ih =>
    intro i j hi hj
    have hlen : ((List.range n).flatMap f).length = m * n := by
      simp [List.length_flatMap, hf, Nat.mul_comm]
    rw [List.range_succ, List.flatMap_append]
    rcases Nat.lt_succ_iff_lt_or_eq.mp hi with h | h
    · have : m * i + j < m * n := by
        calc m * i + j < m * i + m := by omega
          _ = m * (i + 1) := by ring
          _ ≤ m * n := Nat.mul_le_mul_left m h
      rw [List.getD_append _ _ _ _ (by omega)]
      exact ih i j h hj
    · subst h
      rw [List.getD_append_right _ _ _ _ (by omega)]
      simp [hlen]

end Sys2Proof
end

