-- ==== Sys2Proof/Laws/Memory.lean ====
section
/-!
SUPPORT. The laws of the canonical store: a read after a write, the frame of a write, and that every operation keeps the
canonical form (Machine/Ops.lean).
-/

namespace Sys2Proof.Machine

variable {α : Type}

@[simp] theorem Store.read_nil (d : α) (k : Nat) : Store.read d [] k = d := rfl

/-- Below the first index of a canonical store every index is unlisted. -/
theorem Store.read_of_lt [DecidableEq α] {d : α} {lo k : Nat} {m : Store α} (h : Store.wfFrom d lo m = true) (hk : k < lo) :
    Store.read d m k = d := by
  induction m generalizing lo with
  | nil => rfl
  | cons e m ih =>
    obtain ⟨a, v⟩ := e
    simp only [Store.wfFrom, Bool.and_eq_true, decide_eq_true_eq] at h
    have hne : k ≠ a := by omega
    simpa [Store.read, hne] using ih h.2 (by omega)

/-- A store canonical from `lo` is canonical from any smaller bound. -/
theorem Store.wfFrom_mono [DecidableEq α] {d : α} {lo lo' : Nat} {m : Store α} (h : Store.wfFrom d lo m = true)
    (hle : lo' ≤ lo) : Store.wfFrom d lo' m = true := by
  cases m with
  | nil => rfl
  | cons e m =>
    obtain ⟨a, v⟩ := e
    simp only [Store.wfFrom, Bool.and_eq_true, decide_eq_true_eq] at h ⊢
    exact ⟨⟨by omega, h.1.2⟩, h.2⟩

/-- A write leaves every other index alone. -/
theorem Store.read_write_of_ne [DecidableEq α] (d : α) (m : Store α) {k j : Nat} (v : α) (h : j ≠ k) :
    Store.read d (Store.write d m k v) j = Store.read d m j := by
  induction m with
  | nil => by_cases hv : v = d <;> simp [Store.write, Store.read, hv, h]
  | cons e m ih =>
    obtain ⟨a, w⟩ := e
    simp only [Store.write]
    split
    · split <;> simp [Store.read, h]
    · split
      · rename_i hka
        subst hka
        split <;> simp [Store.read, h]
      · simp only [Store.read, ih]

/-- A read after a write to the same index of a canonical store gives the value written. -/
theorem Store.read_write_self [DecidableEq α] {d : α} {lo : Nat} {m : Store α} (h : Store.wfFrom d lo m = true) (k : Nat)
    (v : α) : Store.read d (Store.write d m k v) k = v := by
  induction m generalizing lo with
  | nil => by_cases hv : v = d <;> simp [Store.write, Store.read, hv]
  | cons e m ih =>
    obtain ⟨a, w⟩ := e
    simp only [Store.wfFrom, Bool.and_eq_true, decide_eq_true_eq] at h
    simp only [Store.write]
    split
    · rename_i hka
      split
      · rename_i hv
        have hne : k ≠ a := by omega
        simp [Store.read, hne, hv, Store.read_of_lt h.2 (by omega : k < a + 1)]
      · simp [Store.read]
    · split
      · rename_i hka
        subst hka
        split
        · rename_i hv
          simp [hv, Store.read_of_lt h.2 (by omega : k < k + 1)]
        · simp [Store.read]
      · rename_i hka
        simp only [Store.read, hka, if_false]
        exact ih h.2

/-- A write keeps the canonical form. -/
theorem Store.wfFrom_write [DecidableEq α] {d : α} {lo : Nat} {m : Store α} (h : Store.wfFrom d lo m = true) {k : Nat}
    (v : α) (hk : lo ≤ k) : Store.wfFrom d lo (Store.write d m k v) = true := by
  induction m generalizing lo with
  | nil => by_cases hv : v = d <;> simp [Store.write, Store.wfFrom, hv, hk]
  | cons e m ih =>
    obtain ⟨a, w⟩ := e
    have h' := h
    simp only [Store.wfFrom, Bool.and_eq_true, decide_eq_true_eq] at h
    simp only [Store.write]
    split
    · rename_i hka
      split
      · exact h'
      · rename_i hv
        simp only [Store.wfFrom, Bool.and_eq_true, decide_eq_true_eq]
        exact ⟨⟨hk, hv⟩, ⟨by omega, h.1.2⟩, h.2⟩
    · split
      · split
        · exact Store.wfFrom_mono h.2 (by omega)
        · rename_i hka hv
          simp only [Store.wfFrom, Bool.and_eq_true, decide_eq_true_eq]
          exact ⟨⟨hk, hv⟩, hka ▸ h.2⟩
      · simp only [Store.wfFrom, Bool.and_eq_true, decide_eq_true_eq]
        exact ⟨h.1, ih h.2 (by omega)⟩

/-- A write below `n` adds no index beyond `n`. -/
theorem Store.below_write [DecidableEq α] (d : α) {n k : Nat} {m : Store α} (h : Store.below n m = true) (v : α)
    (hk : k < n) : Store.below n (Store.write d m k v) = true := by
  induction m with
  | nil => by_cases hv : v = d <;> simp [Store.write, Store.below, hv, hk]
  | cons e m ih =>
    obtain ⟨a, w⟩ := e
    have h' := h
    simp only [Store.below, Bool.and_eq_true, decide_eq_true_eq] at h
    simp only [Store.write]
    split
    · split
      · exact h'
      · simp [Store.below, hk, h.1, h.2]
    · split
      · split
        · exact h.2
        · simp [Store.below, hk, h.2]
      · simp [Store.below, h.1, ih h.2]

/-- The store of a list is canonical. -/
theorem Store.wfFrom_ofList [DecidableEq α] (d : α) (base : Nat) (l : List α) :
    Store.wfFrom d base (Store.ofList d base l) = true := by
  induction l generalizing base with
  | nil => rfl
  | cons v vs ih =>
    simp only [Store.ofList]
    split
    · exact Store.wfFrom_mono (ih (base + 1)) (by omega)
    · rename_i hv
      simp only [Store.wfFrom, Bool.and_eq_true, decide_eq_true_eq]
      exact ⟨⟨le_refl _, hv⟩, ih (base + 1)⟩

/-- The store of a list has no index beyond its end. -/
theorem Store.below_ofList [DecidableEq α] (d : α) (base : Nat) (l : List α) {n : Nat} (h : base + l.length ≤ n) :
    Store.below n (Store.ofList d base l) = true := by
  induction l generalizing base with
  | nil => rfl
  | cons v vs ih =>
    simp only [List.length_cons] at h
    simp only [Store.ofList]
    split
    · exact ih (base + 1) (by omega)
    · simp only [Store.below, Bool.and_eq_true, decide_eq_true_eq]
      exact ⟨by omega, ih (base + 1) (by omega)⟩

/-- The store of a list holds the list. -/
theorem Store.read_ofList [DecidableEq α] (d : α) (base : Nat) (l : List α) (j : Nat) :
    Store.read d (Store.ofList d base l) (base + j) = l.getD j d := by
  induction l generalizing base j with
  | nil => simp [Store.ofList]
  | cons v vs ih =>
    cases j with
    | zero =>
      simp only [Store.ofList]
      split
      · rename_i hv
        rw [Store.read_of_lt (Store.wfFrom_ofList d (base + 1) vs) (by omega)]
        simp [hv]
      · simp [Store.read]
    | succ j =>
      have hne : base + (j + 1) ≠ base := by omega
      have e : base + (j + 1) = base + 1 + j := by omega
      simp only [Store.ofList]
      split
      · rw [e, ih]; simp
      · simp only [Store.read, hne, if_false]
        rw [e, ih]; simp

/-! ## PIX and ENC -/

/-- `PIX[i] <- p` and every other pixel as before (R90). -/
theorem State.pixAt_writePix {s : State} (h : pixWf s.pix = true) (i j : Nat) (p : Color) :
    (s.writePix i p).pixAt j = if j = i ∧ i < s.cfg.n then p else s.pixAt j := by
  unfold State.writePix State.pixAt
  by_cases hi : i < s.cfg.n
  · by_cases hj : j = i
    · subst hj
      simpa [hi] using Store.read_write_self h j p
    · simpa [hi, hj] using Store.read_write_of_ne pixUnlisted s.pix p hj
  · simp [hi]

/-- `ENC[k] <- v` and every other byte as before (R92). -/
theorem State.encAt_writeEnc {s : State} (h : Memory.wf s.enc = true) (k j : Nat) (v : Byte) :
    (s.writeEnc k v).encAt j = if j = k ∧ k < s.cfg.len then v else s.encAt j := by
  unfold State.writeEnc State.encAt
  by_cases hk : k < s.cfg.len
  · by_cases hj : j = k
    · subst hj
      simpa [hk] using Store.read_write_self h j v
    · simpa [hk, hj] using Store.read_write_of_ne encUnlisted s.enc v hj
  · simp [hk]

/-- A PIX write keeps PIX canonical. -/
theorem pixWf_writePix {s : State} (h : pixWf s.pix = true) (i : Nat) (p : Color) : pixWf (s.writePix i p).pix = true := by
  unfold State.writePix
  split
  · exact Store.wfFrom_write h p (Nat.zero_le i)
  · exact h

/-- An ENC write keeps ENC canonical. -/
theorem memory_wf_writeEnc {s : State} (h : Memory.wf s.enc = true) (k : Nat) (v : Byte) :
    Memory.wf (s.writeEnc k v).enc = true := by
  unfold State.writeEnc
  split
  · exact Store.wfFrom_write h v (Nat.zero_le k)
  · exact h

/-- The encoder's write of all of ENC is canonical (R111). -/
theorem memory_wf_loadStream (s : State) : Memory.wf s.loadStream.enc = true :=
  Store.wfFrom_ofList encUnlisted 0 _

/-- RESET leaves ENC canonical (R35). -/
theorem memory_wf_applyReset (s : State) : Memory.wf s.applyReset.enc = true := rfl

/-- RESET leaves PIX canonical (R35). -/
theorem pixWf_applyReset (s : State) : pixWf s.applyReset.pix = true := rfl

/-- The memories at power-on are canonical (R35). -/
theorem memory_wf_reset : Memory.wf State.reset.enc = true ∧ pixWf State.reset.pix = true := ⟨rfl, rfl⟩

/-- After the encoder's write ENC holds the stream (R103). -/
theorem State.encAt_loadStream (s : State) (k : Nat) :
    s.loadStream.encAt k = (encodeStream s.cfg s.pixAt s.bright).getD k encUnlisted := by
  simpa [State.encAt, State.loadStream] using
    Store.read_ofList encUnlisted 0 (encodeStream s.cfg s.pixAt s.bright) k

end Sys2Proof.Machine
end

