-- ==== Sys2Proof/Laws/State.lean ====
section
/-!
SUPPORT. One lemma per field per named update of the state, so that no later proof unfolds a record update.
-/

namespace Sys2Proof.Machine

/-! ## State.complete -/

@[simp] theorem State.complete_cfg (s : State) : (s.complete).cfg = s.cfg := rfl
@[simp] theorem State.complete_pix (s : State) : (s.complete).pix = s.pix := rfl
@[simp] theorem State.complete_enc (s : State) : (s.complete).enc = s.enc := rfl
@[simp] theorem State.complete_bright (s : State) : (s.complete).bright = s.bright := rfl
@[simp] theorem State.complete_phase (s : State) : (s.complete).phase = s.phase := rfl
@[simp] theorem State.complete_fault (s : State) : (s.complete).fault = s.fault := rfl
@[simp] theorem State.complete_pos (s : State) : (s.complete).pos = s.pos := rfl
@[simp] theorem State.complete_slot (s : State) : (s.complete).slot = s.slot := rfl
@[simp] theorem State.complete_gapcnt (s : State) : (s.complete).gapcnt = s.gapcnt := rfl
@[simp] theorem State.complete_dout (s : State) : (s.complete).dout = s.dout := rfl
@[simp] theorem State.complete_host (s : State) : (s.complete).host = s.host.tail := rfl
@[simp] theorem State.complete_rdata (s : State) : (s.complete).rdata = s.rdata := rfl
@[simp] theorem State.complete_script (s : State) : (s.complete).script = s.script := rfl
@[simp] theorem State.complete_rounds (s : State) : (s.complete).rounds = s.rounds := rfl
@[simp] theorem State.complete_draws (s : State) : (s.complete).draws = s.draws := rfl

/-! ## State.reply -/

@[simp] theorem State.reply_cfg (s : State) (v : Word) : (s.reply v).cfg = s.cfg := rfl
@[simp] theorem State.reply_pix (s : State) (v : Word) : (s.reply v).pix = s.pix := rfl
@[simp] theorem State.reply_enc (s : State) (v : Word) : (s.reply v).enc = s.enc := rfl
@[simp] theorem State.reply_bright (s : State) (v : Word) : (s.reply v).bright = s.bright := rfl
@[simp] theorem State.reply_phase (s : State) (v : Word) : (s.reply v).phase = s.phase := rfl
@[simp] theorem State.reply_fault (s : State) (v : Word) : (s.reply v).fault = s.fault := rfl
@[simp] theorem State.reply_pos (s : State) (v : Word) : (s.reply v).pos = s.pos := rfl
@[simp] theorem State.reply_slot (s : State) (v : Word) : (s.reply v).slot = s.slot := rfl
@[simp] theorem State.reply_gapcnt (s : State) (v : Word) : (s.reply v).gapcnt = s.gapcnt := rfl
@[simp] theorem State.reply_dout (s : State) (v : Word) : (s.reply v).dout = s.dout := rfl
@[simp] theorem State.reply_host (s : State) (v : Word) : (s.reply v).host = s.host.tail := rfl
@[simp] theorem State.reply_rdata (s : State) (v : Word) : (s.reply v).rdata = v := rfl
@[simp] theorem State.reply_script (s : State) (v : Word) : (s.reply v).script = s.script := rfl
@[simp] theorem State.reply_rounds (s : State) (v : Word) : (s.reply v).rounds = s.rounds := rfl
@[simp] theorem State.reply_draws (s : State) (v : Word) : (s.reply v).draws = s.draws := rfl

/-! ## State.writeBright -/

@[simp] theorem State.writeBright_cfg (s : State) (v : Byte) : (s.writeBright v).cfg = s.cfg := rfl
@[simp] theorem State.writeBright_pix (s : State) (v : Byte) : (s.writeBright v).pix = s.pix := rfl
@[simp] theorem State.writeBright_enc (s : State) (v : Byte) : (s.writeBright v).enc = s.enc := rfl
@[simp] theorem State.writeBright_bright (s : State) (v : Byte) : (s.writeBright v).bright = v := rfl
@[simp] theorem State.writeBright_phase (s : State) (v : Byte) : (s.writeBright v).phase = s.phase := rfl
@[simp] theorem State.writeBright_fault (s : State) (v : Byte) : (s.writeBright v).fault = s.fault := rfl
@[simp] theorem State.writeBright_pos (s : State) (v : Byte) : (s.writeBright v).pos = s.pos := rfl
@[simp] theorem State.writeBright_slot (s : State) (v : Byte) : (s.writeBright v).slot = s.slot := rfl
@[simp] theorem State.writeBright_gapcnt (s : State) (v : Byte) : (s.writeBright v).gapcnt = s.gapcnt := rfl
@[simp] theorem State.writeBright_dout (s : State) (v : Byte) : (s.writeBright v).dout = s.dout := rfl
@[simp] theorem State.writeBright_host (s : State) (v : Byte) : (s.writeBright v).host = s.host := rfl
@[simp] theorem State.writeBright_rdata (s : State) (v : Byte) : (s.writeBright v).rdata = s.rdata := rfl
@[simp] theorem State.writeBright_script (s : State) (v : Byte) : (s.writeBright v).script = s.script := rfl
@[simp] theorem State.writeBright_rounds (s : State) (v : Byte) : (s.writeBright v).rounds = s.rounds := rfl
@[simp] theorem State.writeBright_draws (s : State) (v : Byte) : (s.writeBright v).draws = s.draws := rfl

/-! ## State.loadStream -/

@[simp] theorem State.loadStream_cfg (s : State) : (s.loadStream).cfg = s.cfg := rfl
@[simp] theorem State.loadStream_pix (s : State) : (s.loadStream).pix = s.pix := rfl
@[simp] theorem State.loadStream_enc (s : State) : (s.loadStream).enc = Store.ofList encUnlisted 0 (encodeStream s.cfg s.pixAt s.bright) := rfl
@[simp] theorem State.loadStream_bright (s : State) : (s.loadStream).bright = s.bright := rfl
@[simp] theorem State.loadStream_phase (s : State) : (s.loadStream).phase = s.phase := rfl
@[simp] theorem State.loadStream_fault (s : State) : (s.loadStream).fault = s.fault := rfl
@[simp] theorem State.loadStream_pos (s : State) : (s.loadStream).pos = s.pos := rfl
@[simp] theorem State.loadStream_slot (s : State) : (s.loadStream).slot = s.slot := rfl
@[simp] theorem State.loadStream_gapcnt (s : State) : (s.loadStream).gapcnt = s.gapcnt := rfl
@[simp] theorem State.loadStream_dout (s : State) : (s.loadStream).dout = s.dout := rfl
@[simp] theorem State.loadStream_host (s : State) : (s.loadStream).host = s.host := rfl
@[simp] theorem State.loadStream_rdata (s : State) : (s.loadStream).rdata = s.rdata := rfl
@[simp] theorem State.loadStream_script (s : State) : (s.loadStream).script = s.script := rfl
@[simp] theorem State.loadStream_rounds (s : State) : (s.loadStream).rounds = s.rounds := rfl
@[simp] theorem State.loadStream_draws (s : State) : (s.loadStream).draws = s.draws := rfl

/-! ## State.startFrame -/

@[simp] theorem State.startFrame_cfg (s : State) : (s.startFrame).cfg = s.cfg := rfl
@[simp] theorem State.startFrame_pix (s : State) : (s.startFrame).pix = s.pix := rfl
@[simp] theorem State.startFrame_enc (s : State) : (s.startFrame).enc = s.enc := rfl
@[simp] theorem State.startFrame_bright (s : State) : (s.startFrame).bright = s.bright := rfl
@[simp] theorem State.startFrame_phase (s : State) : (s.startFrame).phase = .busy := rfl
@[simp] theorem State.startFrame_fault (s : State) : (s.startFrame).fault = s.fault := rfl
@[simp] theorem State.startFrame_pos (s : State) : (s.startFrame).pos = 0 := rfl
@[simp] theorem State.startFrame_slot (s : State) : (s.startFrame).slot = 0 := rfl
@[simp] theorem State.startFrame_gapcnt (s : State) : (s.startFrame).gapcnt = s.gapcnt := rfl
@[simp] theorem State.startFrame_dout (s : State) : (s.startFrame).dout = s.dout := rfl
@[simp] theorem State.startFrame_host (s : State) : (s.startFrame).host = s.host := rfl
@[simp] theorem State.startFrame_rdata (s : State) : (s.startFrame).rdata = s.rdata := rfl
@[simp] theorem State.startFrame_script (s : State) : (s.startFrame).script = s.script := rfl
@[simp] theorem State.startFrame_rounds (s : State) : (s.startFrame).rounds = s.rounds := rfl
@[simp] theorem State.startFrame_draws (s : State) : (s.startFrame).draws = s.draws := rfl

/-! ## State.startGap -/

@[simp] theorem State.startGap_cfg (s : State) : (s.startGap).cfg = s.cfg := rfl
@[simp] theorem State.startGap_pix (s : State) : (s.startGap).pix = s.pix := rfl
@[simp] theorem State.startGap_enc (s : State) : (s.startGap).enc = s.enc := rfl
@[simp] theorem State.startGap_bright (s : State) : (s.startGap).bright = s.bright := rfl
@[simp] theorem State.startGap_phase (s : State) : (s.startGap).phase = .gap := rfl
@[simp] theorem State.startGap_fault (s : State) : (s.startGap).fault = s.fault := rfl
@[simp] theorem State.startGap_pos (s : State) : (s.startGap).pos = s.pos := rfl
@[simp] theorem State.startGap_slot (s : State) : (s.startGap).slot = s.slot := rfl
@[simp] theorem State.startGap_gapcnt (s : State) : (s.startGap).gapcnt = s.cfg.resetTicks := rfl
@[simp] theorem State.startGap_dout (s : State) : (s.startGap).dout = s.dout := rfl
@[simp] theorem State.startGap_host (s : State) : (s.startGap).host = s.host := rfl
@[simp] theorem State.startGap_rdata (s : State) : (s.startGap).rdata = s.rdata := rfl
@[simp] theorem State.startGap_script (s : State) : (s.startGap).script = s.script := rfl
@[simp] theorem State.startGap_rounds (s : State) : (s.startGap).rounds = s.rounds := rfl
@[simp] theorem State.startGap_draws (s : State) : (s.startGap).draws = s.draws := rfl

/-! ## State.drawLine -/

@[simp] theorem State.drawLine_cfg (s : State) : (s.drawLine).cfg = s.cfg := rfl
@[simp] theorem State.drawLine_pix (s : State) : (s.drawLine).pix = s.pix := rfl
@[simp] theorem State.drawLine_enc (s : State) : (s.drawLine).enc = s.enc := rfl
@[simp] theorem State.drawLine_bright (s : State) : (s.drawLine).bright = s.bright := rfl
@[simp] theorem State.drawLine_phase (s : State) : (s.drawLine).phase = s.phase := rfl
@[simp] theorem State.drawLine_fault (s : State) : (s.drawLine).fault = s.fault := rfl
@[simp] theorem State.drawLine_pos (s : State) : (s.drawLine).pos = s.pos := rfl
@[simp] theorem State.drawLine_slot (s : State) : (s.drawLine).slot = s.slot := rfl
@[simp] theorem State.drawLine_gapcnt (s : State) : (s.drawLine).gapcnt = s.gapcnt := rfl
@[simp] theorem State.drawLine_dout (s : State) : (s.drawLine).dout = Config.freeLevel s.draws := rfl
@[simp] theorem State.drawLine_host (s : State) : (s.drawLine).host = s.host := rfl
@[simp] theorem State.drawLine_rdata (s : State) : (s.drawLine).rdata = s.rdata := rfl
@[simp] theorem State.drawLine_script (s : State) : (s.drawLine).script = s.script := rfl
@[simp] theorem State.drawLine_rounds (s : State) : (s.drawLine).rounds = s.rounds := rfl
@[simp] theorem State.drawLine_draws (s : State) : (s.drawLine).draws = s.draws + 1 := rfl

/-! ## State.takeFault and State.takeBusFault -/

@[simp] theorem State.takeFault_busFault (s : State) : s.takeFault .busFault = s.takeBusFault := rfl
@[simp] theorem State.takeBusFault_cfg (s : State) : (s.takeBusFault).cfg = s.cfg := rfl
@[simp] theorem State.takeBusFault_pix (s : State) : (s.takeBusFault).pix = s.pix := rfl
@[simp] theorem State.takeBusFault_enc (s : State) : (s.takeBusFault).enc = s.enc := rfl
@[simp] theorem State.takeBusFault_bright (s : State) : (s.takeBusFault).bright = s.bright := rfl
@[simp] theorem State.takeBusFault_phase (s : State) : (s.takeBusFault).phase = .halted := rfl
@[simp] theorem State.takeBusFault_fault (s : State) : (s.takeBusFault).fault = true := rfl
@[simp] theorem State.takeBusFault_pos (s : State) : (s.takeBusFault).pos = s.pos := rfl
@[simp] theorem State.takeBusFault_slot (s : State) : (s.takeBusFault).slot = s.slot := rfl
@[simp] theorem State.takeBusFault_gapcnt (s : State) : (s.takeBusFault).gapcnt = s.gapcnt := rfl
@[simp] theorem State.takeBusFault_dout (s : State) : (s.takeBusFault).dout = Config.freeLevel s.draws := rfl
@[simp] theorem State.takeBusFault_host (s : State) : (s.takeBusFault).host = s.host := rfl
@[simp] theorem State.takeBusFault_rdata (s : State) : (s.takeBusFault).rdata = s.rdata := rfl
@[simp] theorem State.takeBusFault_script (s : State) : (s.takeBusFault).script = s.script := rfl
@[simp] theorem State.takeBusFault_rounds (s : State) : (s.takeBusFault).rounds = s.rounds := rfl
@[simp] theorem State.takeBusFault_draws (s : State) : (s.takeBusFault).draws = s.draws + 1 := rfl

/-! ## State.applyReset -/

@[simp] theorem State.applyReset_cfg (s : State) : (s.applyReset).cfg = s.cfg := rfl
@[simp] theorem State.applyReset_pix (s : State) : (s.applyReset).pix = [] := rfl
@[simp] theorem State.applyReset_enc (s : State) : (s.applyReset).enc = [] := rfl
@[simp] theorem State.applyReset_bright (s : State) : (s.applyReset).bright = 0xFF#8 := rfl
@[simp] theorem State.applyReset_phase (s : State) : (s.applyReset).phase = .gap := rfl
@[simp] theorem State.applyReset_fault (s : State) : (s.applyReset).fault = false := rfl
@[simp] theorem State.applyReset_pos (s : State) : (s.applyReset).pos = 0 := rfl
@[simp] theorem State.applyReset_slot (s : State) : (s.applyReset).slot = 0 := rfl
@[simp] theorem State.applyReset_gapcnt (s : State) : (s.applyReset).gapcnt = s.cfg.resetTicks := rfl
@[simp] theorem State.applyReset_dout (s : State) : (s.applyReset).dout = false := rfl
@[simp] theorem State.applyReset_host (s : State) : (s.applyReset).host = s.host := rfl
@[simp] theorem State.applyReset_rdata (s : State) : (s.applyReset).rdata = s.rdata := rfl
@[simp] theorem State.applyReset_script (s : State) : (s.applyReset).script = s.script := rfl
@[simp] theorem State.applyReset_rounds (s : State) : (s.applyReset).rounds = s.rounds := rfl
@[simp] theorem State.applyReset_draws (s : State) : (s.applyReset).draws = s.draws := rfl

/-! ## State.endFrame -/

@[simp] theorem State.endFrame_cfg (s : State) : (s.endFrame).cfg = s.cfg := rfl
@[simp] theorem State.endFrame_pix (s : State) : (s.endFrame).pix = s.pix := rfl
@[simp] theorem State.endFrame_enc (s : State) : (s.endFrame).enc = s.enc := rfl
@[simp] theorem State.endFrame_bright (s : State) : (s.endFrame).bright = s.bright := rfl
@[simp] theorem State.endFrame_phase (s : State) : (s.endFrame).phase = .gap := rfl
@[simp] theorem State.endFrame_fault (s : State) : (s.endFrame).fault = s.fault := rfl
@[simp] theorem State.endFrame_pos (s : State) : (s.endFrame).pos = 0 := rfl
@[simp] theorem State.endFrame_slot (s : State) : (s.endFrame).slot = 0 := rfl
@[simp] theorem State.endFrame_gapcnt (s : State) : (s.endFrame).gapcnt = s.cfg.resetTicks := rfl
@[simp] theorem State.endFrame_dout (s : State) : (s.endFrame).dout = s.dout := rfl
@[simp] theorem State.endFrame_host (s : State) : (s.endFrame).host = s.host := rfl
@[simp] theorem State.endFrame_rdata (s : State) : (s.endFrame).rdata = s.rdata := rfl
@[simp] theorem State.endFrame_script (s : State) : (s.endFrame).script = s.script := rfl
@[simp] theorem State.endFrame_rounds (s : State) : (s.endFrame).rounds = s.rounds := rfl
@[simp] theorem State.endFrame_draws (s : State) : (s.endFrame).draws = s.draws := rfl

/-! ## State.beginRound -/

@[simp] theorem State.beginRound_cfg (s : State) (l : List Turn) : (s.beginRound l).cfg = s.cfg := rfl
@[simp] theorem State.beginRound_pix (s : State) (l : List Turn) : (s.beginRound l).pix = s.pix := rfl
@[simp] theorem State.beginRound_enc (s : State) (l : List Turn) : (s.beginRound l).enc = s.enc := rfl
@[simp] theorem State.beginRound_bright (s : State) (l : List Turn) : (s.beginRound l).bright = s.bright := rfl
@[simp] theorem State.beginRound_phase (s : State) (l : List Turn) : (s.beginRound l).phase = s.phase := rfl
@[simp] theorem State.beginRound_fault (s : State) (l : List Turn) : (s.beginRound l).fault = s.fault := rfl
@[simp] theorem State.beginRound_pos (s : State) (l : List Turn) : (s.beginRound l).pos = s.pos := rfl
@[simp] theorem State.beginRound_slot (s : State) (l : List Turn) : (s.beginRound l).slot = s.slot := rfl
@[simp] theorem State.beginRound_gapcnt (s : State) (l : List Turn) : (s.beginRound l).gapcnt = s.gapcnt := rfl
@[simp] theorem State.beginRound_dout (s : State) (l : List Turn) : (s.beginRound l).dout = s.dout := rfl
@[simp] theorem State.beginRound_host (s : State) (l : List Turn) : (s.beginRound l).host = s.host ++ Config.freeIssue s.rounds := rfl
@[simp] theorem State.beginRound_rdata (s : State) (l : List Turn) : (s.beginRound l).rdata = s.rdata := rfl
@[simp] theorem State.beginRound_script (s : State) (l : List Turn) : (s.beginRound l).script = l := rfl
@[simp] theorem State.beginRound_rounds (s : State) (l : List Turn) : (s.beginRound l).rounds = s.rounds + 1 := rfl
@[simp] theorem State.beginRound_draws (s : State) (l : List Turn) : (s.beginRound l).draws = s.draws := rfl

/-! ## State.placeWord -/

@[simp] theorem State.placeWord_cfg (s : State) (w : Txn) : (s.placeWord w).cfg = s.cfg := rfl
@[simp] theorem State.placeWord_pix (s : State) (w : Txn) : (s.placeWord w).pix = s.pix := rfl
@[simp] theorem State.placeWord_enc (s : State) (w : Txn) : (s.placeWord w).enc = s.enc := rfl
@[simp] theorem State.placeWord_bright (s : State) (w : Txn) : (s.placeWord w).bright = s.bright := rfl
@[simp] theorem State.placeWord_phase (s : State) (w : Txn) : (s.placeWord w).phase = s.phase := rfl
@[simp] theorem State.placeWord_fault (s : State) (w : Txn) : (s.placeWord w).fault = s.fault := rfl
@[simp] theorem State.placeWord_pos (s : State) (w : Txn) : (s.placeWord w).pos = s.pos := rfl
@[simp] theorem State.placeWord_slot (s : State) (w : Txn) : (s.placeWord w).slot = s.slot := rfl
@[simp] theorem State.placeWord_gapcnt (s : State) (w : Txn) : (s.placeWord w).gapcnt = s.gapcnt := rfl
@[simp] theorem State.placeWord_dout (s : State) (w : Txn) : (s.placeWord w).dout = s.dout := rfl
@[simp] theorem State.placeWord_host (s : State) (w : Txn) : (s.placeWord w).host = Access.ofTxn w :: s.host := rfl
@[simp] theorem State.placeWord_rdata (s : State) (w : Txn) : (s.placeWord w).rdata = s.rdata := rfl
@[simp] theorem State.placeWord_script (s : State) (w : Txn) : (s.placeWord w).script = .host :: s.script := rfl
@[simp] theorem State.placeWord_rounds (s : State) (w : Txn) : (s.placeWord w).rounds = s.rounds := rfl
@[simp] theorem State.placeWord_draws (s : State) (w : Txn) : (s.placeWord w).draws = s.draws := rfl

/-! ## State.writePix: the fields it leaves alone -/

@[simp] theorem State.writePix_cfg (s : State) (i : Nat) (p : Color) : (s.writePix i p).cfg = s.cfg := by
  unfold State.writePix; split <;> rfl
@[simp] theorem State.writePix_enc (s : State) (i : Nat) (p : Color) : (s.writePix i p).enc = s.enc := by
  unfold State.writePix; split <;> rfl
@[simp] theorem State.writePix_bright (s : State) (i : Nat) (p : Color) : (s.writePix i p).bright = s.bright := by
  unfold State.writePix; split <;> rfl
@[simp] theorem State.writePix_phase (s : State) (i : Nat) (p : Color) : (s.writePix i p).phase = s.phase := by
  unfold State.writePix; split <;> rfl
@[simp] theorem State.writePix_fault (s : State) (i : Nat) (p : Color) : (s.writePix i p).fault = s.fault := by
  unfold State.writePix; split <;> rfl
@[simp] theorem State.writePix_pos (s : State) (i : Nat) (p : Color) : (s.writePix i p).pos = s.pos := by
  unfold State.writePix; split <;> rfl
@[simp] theorem State.writePix_slot (s : State) (i : Nat) (p : Color) : (s.writePix i p).slot = s.slot := by
  unfold State.writePix; split <;> rfl
@[simp] theorem State.writePix_gapcnt (s : State) (i : Nat) (p : Color) : (s.writePix i p).gapcnt = s.gapcnt := by
  unfold State.writePix; split <;> rfl
@[simp] theorem State.writePix_dout (s : State) (i : Nat) (p : Color) : (s.writePix i p).dout = s.dout := by
  unfold State.writePix; split <;> rfl
@[simp] theorem State.writePix_host (s : State) (i : Nat) (p : Color) : (s.writePix i p).host = s.host := by
  unfold State.writePix; split <;> rfl
@[simp] theorem State.writePix_rdata (s : State) (i : Nat) (p : Color) : (s.writePix i p).rdata = s.rdata := by
  unfold State.writePix; split <;> rfl
@[simp] theorem State.writePix_script (s : State) (i : Nat) (p : Color) : (s.writePix i p).script = s.script := by
  unfold State.writePix; split <;> rfl
@[simp] theorem State.writePix_rounds (s : State) (i : Nat) (p : Color) : (s.writePix i p).rounds = s.rounds := by
  unfold State.writePix; split <;> rfl
@[simp] theorem State.writePix_draws (s : State) (i : Nat) (p : Color) : (s.writePix i p).draws = s.draws := by
  unfold State.writePix; split <;> rfl

/-! ## State.writeEnc: the fields it leaves alone -/

@[simp] theorem State.writeEnc_cfg (s : State) (k : Nat) (v : Byte) : (s.writeEnc k v).cfg = s.cfg := by
  unfold State.writeEnc; split <;> rfl
@[simp] theorem State.writeEnc_pix (s : State) (k : Nat) (v : Byte) : (s.writeEnc k v).pix = s.pix := by
  unfold State.writeEnc; split <;> rfl
@[simp] theorem State.writeEnc_bright (s : State) (k : Nat) (v : Byte) : (s.writeEnc k v).bright = s.bright := by
  unfold State.writeEnc; split <;> rfl
@[simp] theorem State.writeEnc_phase (s : State) (k : Nat) (v : Byte) : (s.writeEnc k v).phase = s.phase := by
  unfold State.writeEnc; split <;> rfl
@[simp] theorem State.writeEnc_fault (s : State) (k : Nat) (v : Byte) : (s.writeEnc k v).fault = s.fault := by
  unfold State.writeEnc; split <;> rfl
@[simp] theorem State.writeEnc_pos (s : State) (k : Nat) (v : Byte) : (s.writeEnc k v).pos = s.pos := by
  unfold State.writeEnc; split <;> rfl
@[simp] theorem State.writeEnc_slot (s : State) (k : Nat) (v : Byte) : (s.writeEnc k v).slot = s.slot := by
  unfold State.writeEnc; split <;> rfl
@[simp] theorem State.writeEnc_gapcnt (s : State) (k : Nat) (v : Byte) : (s.writeEnc k v).gapcnt = s.gapcnt := by
  unfold State.writeEnc; split <;> rfl
@[simp] theorem State.writeEnc_dout (s : State) (k : Nat) (v : Byte) : (s.writeEnc k v).dout = s.dout := by
  unfold State.writeEnc; split <;> rfl
@[simp] theorem State.writeEnc_host (s : State) (k : Nat) (v : Byte) : (s.writeEnc k v).host = s.host := by
  unfold State.writeEnc; split <;> rfl
@[simp] theorem State.writeEnc_rdata (s : State) (k : Nat) (v : Byte) : (s.writeEnc k v).rdata = s.rdata := by
  unfold State.writeEnc; split <;> rfl
@[simp] theorem State.writeEnc_script (s : State) (k : Nat) (v : Byte) : (s.writeEnc k v).script = s.script := by
  unfold State.writeEnc; split <;> rfl
@[simp] theorem State.writeEnc_rounds (s : State) (k : Nat) (v : Byte) : (s.writeEnc k v).rounds = s.rounds := by
  unfold State.writeEnc; split <;> rfl
@[simp] theorem State.writeEnc_draws (s : State) (k : Nat) (v : Byte) : (s.writeEnc k v).draws = s.draws := by
  unfold State.writeEnc; split <;> rfl

/-! ## State.advance: the fields it leaves alone -/

@[simp] theorem State.advance_cfg (s : State) : (s.advance).cfg = s.cfg := by
  unfold State.advance; split
  · rfl
  · split <;> rfl
@[simp] theorem State.advance_pix (s : State) : (s.advance).pix = s.pix := by
  unfold State.advance; split
  · rfl
  · split <;> rfl
@[simp] theorem State.advance_enc (s : State) : (s.advance).enc = s.enc := by
  unfold State.advance; split
  · rfl
  · split <;> rfl
@[simp] theorem State.advance_bright (s : State) : (s.advance).bright = s.bright := by
  unfold State.advance; split
  · rfl
  · split <;> rfl
@[simp] theorem State.advance_fault (s : State) : (s.advance).fault = s.fault := by
  unfold State.advance; split
  · rfl
  · split <;> rfl
@[simp] theorem State.advance_dout (s : State) : (s.advance).dout = s.dout := by
  unfold State.advance; split
  · rfl
  · split <;> rfl
@[simp] theorem State.advance_host (s : State) : (s.advance).host = s.host := by
  unfold State.advance; split
  · rfl
  · split <;> rfl
@[simp] theorem State.advance_rdata (s : State) : (s.advance).rdata = s.rdata := by
  unfold State.advance; split
  · rfl
  · split <;> rfl
@[simp] theorem State.advance_script (s : State) : (s.advance).script = s.script := by
  unfold State.advance; split
  · rfl
  · split <;> rfl
@[simp] theorem State.advance_rounds (s : State) : (s.advance).rounds = s.rounds := by
  unfold State.advance; split
  · rfl
  · split <;> rfl
@[simp] theorem State.advance_draws (s : State) : (s.advance).draws = s.draws := by
  unfold State.advance; split
  · rfl
  · split <;> rfl

/-! ## State.shiftOut: the fields it leaves alone -/

@[simp] theorem State.shiftOut_cfg (s : State) : (s.shiftOut).cfg = s.cfg := by
  simp [State.shiftOut]
@[simp] theorem State.shiftOut_pix (s : State) : (s.shiftOut).pix = s.pix := by
  simp [State.shiftOut]
@[simp] theorem State.shiftOut_enc (s : State) : (s.shiftOut).enc = s.enc := by
  simp [State.shiftOut]
@[simp] theorem State.shiftOut_bright (s : State) : (s.shiftOut).bright = s.bright := by
  simp [State.shiftOut]
@[simp] theorem State.shiftOut_fault (s : State) : (s.shiftOut).fault = s.fault := by
  simp [State.shiftOut]
@[simp] theorem State.shiftOut_host (s : State) : (s.shiftOut).host = s.host := by
  simp [State.shiftOut]
@[simp] theorem State.shiftOut_rdata (s : State) : (s.shiftOut).rdata = s.rdata := by
  simp [State.shiftOut]
@[simp] theorem State.shiftOut_script (s : State) : (s.shiftOut).script = s.script := by
  simp [State.shiftOut]
@[simp] theorem State.shiftOut_rounds (s : State) : (s.shiftOut).rounds = s.rounds := by
  simp [State.shiftOut]
@[simp] theorem State.shiftOut_draws (s : State) : (s.shiftOut).draws = s.draws := by
  simp [State.shiftOut]

@[simp] theorem State.shiftOut_dout (s : State) : s.shiftOut.dout = s.currentBit := by
  unfold State.shiftOut State.advance; split
  · rfl
  · split <;> rfl

/-! ## Power-on -/

@[simp] theorem State.resetOf_cfg (c : Config) : (State.resetOf c).cfg = c := rfl
@[simp] theorem State.resetOf_pix (c : Config) : (State.resetOf c).pix = [] := rfl
@[simp] theorem State.resetOf_enc (c : Config) : (State.resetOf c).enc = [] := rfl
@[simp] theorem State.resetOf_bright (c : Config) : (State.resetOf c).bright = 0xFF#8 := rfl
@[simp] theorem State.resetOf_phase (c : Config) : (State.resetOf c).phase = .gap := rfl
@[simp] theorem State.resetOf_fault (c : Config) : (State.resetOf c).fault = false := rfl
@[simp] theorem State.resetOf_pos (c : Config) : (State.resetOf c).pos = 0 := rfl
@[simp] theorem State.resetOf_slot (c : Config) : (State.resetOf c).slot = 0 := rfl
@[simp] theorem State.resetOf_gapcnt (c : Config) : (State.resetOf c).gapcnt = c.resetTicks := rfl
@[simp] theorem State.resetOf_dout (c : Config) : (State.resetOf c).dout = false := rfl
@[simp] theorem State.resetOf_host (c : Config) : (State.resetOf c).host = [] := rfl
@[simp] theorem State.resetOf_rdata (c : Config) : (State.resetOf c).rdata = 0#32 := rfl
@[simp] theorem State.resetOf_script (c : Config) : (State.resetOf c).script = [] := rfl
@[simp] theorem State.resetOf_rounds (c : Config) : (State.resetOf c).rounds = 0 := rfl
@[simp] theorem State.resetOf_draws (c : Config) : (State.resetOf c).draws = 0 := rfl

end Sys2Proof.Machine
end

