-- ==== Sys2Proof/Laws/Ops.lean ====
section
/-!
SUPPORT. What each shared operation can do, said once: command acceptance (R126), the device tick (R120), a host transaction
(R80, R126), and a step.
-/

namespace Sys2Proof.Machine

/-! ## Command acceptance (R126) -/

theorem accept_idle {body : State → State} {s : State} (h : s.phase = .idle) : accept body s = .next (body s).complete := by
  simp [accept, h]

theorem accept_busy {body : State → State} {s : State} (h : s.phase = .busy) : accept body s = .next s := by
  simp [accept, hold, h]

theorem accept_gap {body : State → State} {s : State} (h : s.phase = .gap) : accept body s = .next s := by
  simp [accept, hold, h]

theorem accept_halted {body : State → State} {s : State} (h : s.phase = .halted) : accept body s = .next s.complete := by
  simp [accept, h]

/-- A command is performed in IDLE, held in BUSY and GAP, and dropped in HALTED. -/
theorem accept_next {body : State → State} {s t : State} (h : accept body s = .next t) :
    (s.phase = .idle ∧ t = (body s).complete) ∨ ((s.phase = .busy ∨ s.phase = .gap) ∧ t = s) ∨
      (s.phase = .halted ∧ t = s.complete) := by
  cases hp : s.phase <;> simp only [accept, hp, hold, Host.Outcome.next.injEq] at h <;> simp [h]

/-! ## Host transactions -/

/-- Everything a host transaction can do to the state (R63, R80, R126). -/
inductive HostEffect (s : State) : State → Prop where
  | held : HostEffect s s
  | none : HostEffect s s.complete
  | reply (v : Word) : HostEffect s (s.reply v)
  | bright (v : Byte) : HostEffect s (s.writeBright v).complete
  | pix (i : Nat) (p : Color) : HostEffect s (s.writePix i p).complete
  | enc (h : s.phase ≠ .busy) (k : Nat) (v : Byte) : HostEffect s (s.writeEnc k v).complete
  | encode (h : s.phase = .idle) : HostEffect s s.loadStream.complete
  | send (h : s.phase = .idle) : HostEffect s s.loadStream.startFrame.complete
  | sendStream (h : s.phase = .idle) : HostEffect s s.startFrame.complete
  | idleGap (h : s.phase = .idle) : HostEffect s s.startGap.complete

theorem accept_effect {body : State → State} {s : State} (h : s.phase = .idle → HostEffect s (body s).complete) :
    ∃ t, accept body s = .next t ∧ HostEffect s t := by
  cases hp : s.phase
  · exact ⟨_, accept_idle hp, h hp⟩
  · exact ⟨_, accept_busy hp, .held⟩
  · exact ⟨_, accept_gap hp, .held⟩
  · exact ⟨_, accept_halted hp, .none⟩

theorem execWrEnc_effect (k : BitVec 15) (d : Word) (s : State) :
    ∃ t, execWrEnc k d s = .next t ∧ HostEffect s t := by
  cases hp : s.phase <;> simp only [execWrEnc, hp, hold]
  · exact ⟨_, rfl, .enc (by simp [hp]) _ _⟩
  · exact ⟨_, rfl, .held⟩
  · exact ⟨_, rfl, .enc (by simp [hp]) _ _⟩
  · exact ⟨_, rfl, .enc (by simp [hp]) _ _⟩

/-- Every instruction answers a next state: no host transaction faults and none is refused once decoded (R151). -/
theorem exec_effect (i : Instr) (s : State) : ∃ t, exec i s = .next t ∧ HostEffect s t := by
  cases i
  case nop => exact accept_effect fun _ => .none
  case send => exact accept_effect (body := fun s => s.loadStream.startFrame) fun h => .send h
  case encode => exact accept_effect fun h => .encode h
  case sendStream => exact accept_effect fun h => .sendStream h
  case idleGap => exact accept_effect fun h => .idleGap h
  case rdStatus => exact ⟨_, rfl, .reply _⟩
  case rdBright => exact ⟨_, rfl, .reply _⟩
  case wrBright d => exact ⟨_, rfl, .bright _⟩
  case rdParamN => exact ⟨_, rfl, .reply _⟩
  case rdParamHdr => exact ⟨_, rfl, .reply _⟩
  case rdParamLen => exact ⟨_, rfl, .reply _⟩
  case rdParamCfg => exact ⟨_, rfl, .reply _⟩
  case rdParamGap => exact ⟨_, rfl, .reply _⟩
  case rdPix i => exact ⟨_, rfl, .reply _⟩
  case wrPix i d => exact ⟨_, rfl, .pix _ _⟩
  case rdEnc k => exact ⟨_, rfl, .reply _⟩
  case wrEnc k d => exact execWrEnc_effect k d s
  case rdZero a => exact ⟨_, rfl, .reply _⟩
  case wrIgnored a d => exact ⟨_, rfl, .none⟩

theorem exec_next {i : Instr} {s t : State} (h : exec i s = .next t) : HostEffect s t := by
  obtain ⟨u, hu, he⟩ := exec_effect i s
  rw [hu] at h
  cases h
  exact he

/-! ## The device tick -/

/-- Where the position goes after a slot (R22, R122). -/
theorem advance_cases (s : State) :
    (s.slot.val < 7 ∧ s.advance = { s with slot := s.slot + 1 }) ∨
      (s.slot = 7 ∧ s.pos + 1 < s.cfg.len ∧ s.advance = { s with slot := 0, pos := s.pos + 1 }) ∨
      (s.slot = 7 ∧ s.cfg.len ≤ s.pos + 1 ∧ s.advance = s.endFrame) := by
  unfold State.advance
  by_cases h : s.slot.val < 7
  · exact .inl ⟨h, by simp [h]⟩
  · have h7 : s.slot = 7 := by omega
    by_cases hp : s.pos + 1 < s.cfg.len
    · exact .inr (.inl ⟨h7, hp, by simp [h, hp]⟩)
    · exact .inr (.inr ⟨h7, by omega, by simp [h, hp]⟩)

/-- Everything a tick can do (R121 to R124). -/
inductive TickEffect (s : State) : Bool → State → Prop where
  | idle (bf : Bool) (h : s.phase = .idle) : TickEffect s bf { s with dout := false }
  | busFault (h : s.phase = .busy) : TickEffect s true s.takeBusFault
  | shift (h : s.phase = .busy) (hp : s.pos < s.cfg.len) : TickEffect s false s.shiftOut
  | gapEnd (bf : Bool) (h : s.phase = .gap) (hg : s.gapcnt = 1) :
      TickEffect s bf { s with dout := false, gapcnt := 0, phase := .idle }
  | gapRun (bf : Bool) (h : s.phase = .gap) (g : Nat) (hg : s.gapcnt = g + 2) :
      TickEffect s bf { s with dout := false, gapcnt := g + 1 }
  | halted (bf : Bool) (h : s.phase = .halted) : TickEffect s bf s.drawLine

/-- A tick raises BusFault exactly in BUSY with BUS_FAULT = 1 (R145, R150). -/
theorem tickRaises_iff {bf : Bool} {s : State} {c : Cause} : tickRaises bf s = some c ↔ s.phase = .busy ∧ bf = true := by
  cases c
  cases hp : s.phase <;> cases bf <;> simp [tickRaises, busyRaises, hp]

/-- A tick that raises a cause takes it (R147). -/
theorem tick_of_raises {bf : Bool} {s : State} {c : Cause} (h : tickRaises bf s = some c) :
    tick bf s = .next (s.takeFault c) := by
  obtain ⟨hp, rfl⟩ := tickRaises_iff.mp h
  cases c
  simp [tick, tickBusy, busyRaises, hp]

theorem tick_next {bf : Bool} {s t : State} (h : tick bf s = .next t) : TickEffect s bf t := by
  cases hp : s.phase <;> simp only [tick, hp] at h
  · cases h
    exact .idle bf hp
  · cases bf
    · simp only [tickBusy, busyRaises, Bool.false_eq_true, if_false] at h
      split at h
      · rename_i hl
        cases h
        exact .shift hp hl
      · cases h
    · cases h
      exact .busFault hp
  · unfold tickGap at h
    split at h
    · cases h
    · rename_i hg
      cases h
      exact .gapEnd bf hp hg
    · rename_i g hne hg
      cases g with
      | zero => exact absurd rfl hne
      | succ g =>
        cases h
        exact .gapRun bf hp g hg
  · cases h
    exact .halted bf hp

/-- A tick answers a next state wherever R34 (a) and (b) hold. -/
theorem tick_some {s : State} (bf : Bool) (hb : s.phase = .busy → s.pos < s.cfg.len)
    (hg : s.phase = .gap → 1 ≤ s.gapcnt) : ∃ t, tick bf s = .next t := by
  cases hp : s.phase <;> simp only [tick, hp]
  · exact ⟨_, rfl⟩
  · cases bf
    · exact ⟨s.shiftOut, by simp [tickBusy, busyRaises, hb hp]⟩
    · exact ⟨_, rfl⟩
  · have := hg hp
    unfold tickGap
    split
    · omega
    · exact ⟨_, rfl⟩
    · exact ⟨_, rfl⟩
  · exact ⟨_, rfl⟩

end Sys2Proof.Machine
end

