-- ==== Sys2Proof/Laws/PerInstr.lean ====
section
/-!
SUPPORT. Statements made per instruction. EncodePassesChecks: the word of a well-formed instruction is aligned and, where it
is a read, carries no data, so that it passes steps 1 and 2 of R67.
-/

namespace Sys2Proof.Laws

theorem aligned_pixOffset (i : BitVec 10) : alignedOffset (pixOffset i) = true := by
  unfold alignedOffset pixOffset
  rw [beq_iff_eq]
  apply BitVec.eq_of_getLsbD_eq
  intro j hj
  simp only [BitVec.getLsbD_extractLsb', BitVec.getLsbD_append]
  simp [hj]

theorem aligned_encOffset (k : BitVec 15) : alignedOffset (encOffset k) = true := by
  unfold alignedOffset encOffset
  rw [beq_iff_eq]
  apply BitVec.eq_of_getLsbD_eq
  intro j hj
  simp only [BitVec.getLsbD_extractLsb', BitVec.getLsbD_append]
  simp [hj]

/-- The encoded word passes the first two checks of the decoder. -/
def EncodePassesChecks.Statement (i : Instr) : Prop :=
  i.wf = true → alignedOffset (txnOffset (encode i)) = true ∧ (txnWrite (encode i) = false → txnData (encode i) = 0#32)

theorem EncodePassesChecks.nop : EncodePassesChecks.Statement .nop := by intro _; simp [Sys2Proof.encode]; decide
theorem EncodePassesChecks.send : EncodePassesChecks.Statement .send := by intro _; simp [Sys2Proof.encode]; decide
theorem EncodePassesChecks.encode : EncodePassesChecks.Statement .encode := by intro _; simp [Sys2Proof.encode]; decide
theorem EncodePassesChecks.sendStream : EncodePassesChecks.Statement .sendStream := by
  intro _; simp [Sys2Proof.encode]; decide
theorem EncodePassesChecks.idleGap : EncodePassesChecks.Statement .idleGap := by intro _; simp [Sys2Proof.encode]; decide
theorem EncodePassesChecks.rdStatus : EncodePassesChecks.Statement .rdStatus := by intro _; simp [Sys2Proof.encode]; decide
theorem EncodePassesChecks.rdBright : EncodePassesChecks.Statement .rdBright := by intro _; simp [Sys2Proof.encode]; decide
theorem EncodePassesChecks.wrBright (d : Word) : EncodePassesChecks.Statement (.wrBright d) := by
  intro _; simp [Sys2Proof.encode]; decide
theorem EncodePassesChecks.rdParamN : EncodePassesChecks.Statement .rdParamN := by intro _; simp [Sys2Proof.encode]; decide
theorem EncodePassesChecks.rdParamHdr : EncodePassesChecks.Statement .rdParamHdr := by
  intro _; simp [Sys2Proof.encode]; decide
theorem EncodePassesChecks.rdParamLen : EncodePassesChecks.Statement .rdParamLen := by
  intro _; simp [Sys2Proof.encode]; decide
theorem EncodePassesChecks.rdParamCfg : EncodePassesChecks.Statement .rdParamCfg := by
  intro _; simp [Sys2Proof.encode]; decide
theorem EncodePassesChecks.rdParamGap : EncodePassesChecks.Statement .rdParamGap := by
  intro _; simp [Sys2Proof.encode]; decide
theorem EncodePassesChecks.rdPix (i : BitVec 10) : EncodePassesChecks.Statement (.rdPix i) := by
  intro _; simp [Sys2Proof.encode, aligned_pixOffset]
theorem EncodePassesChecks.wrPix (i : BitVec 10) (d : Word) : EncodePassesChecks.Statement (.wrPix i d) := by
  intro _; simp [Sys2Proof.encode, aligned_pixOffset]
theorem EncodePassesChecks.rdEnc (k : BitVec 15) : EncodePassesChecks.Statement (.rdEnc k) := by
  intro _; simp [Sys2Proof.encode, aligned_encOffset]
theorem EncodePassesChecks.wrEnc (k : BitVec 15) (d : Word) : EncodePassesChecks.Statement (.wrEnc k d) := by
  intro _; simp [Sys2Proof.encode, aligned_encOffset]
theorem EncodePassesChecks.rdZero (a : Offset) : EncodePassesChecks.Statement (.rdZero a) := by
  intro h
  simp only [Instr.wf, Bool.and_eq_true] at h
  simp [Sys2Proof.encode, h.1]
theorem EncodePassesChecks.wrIgnored (a : Offset) (d : Word) : EncodePassesChecks.Statement (.wrIgnored a d) := by
  intro h
  simp only [Instr.wf, Bool.and_eq_true] at h
  simp [Sys2Proof.encode, h.1]

end Sys2Proof.Laws
end

