-- ==== Sys2Proof/Laws/Step.lean ====
section
/-!
SUPPORT. What taking a turn leaves alone, and everything a step can do, said once (R5, R12).
-/

namespace Sys2Proof.Machine

/-! ## Taking a turn -/

theorem takeTurn_cons {s : State} {u : Turn} {rest : List Turn} (h : s.script = u :: rest) :
    s.takeTurn = (u, { s with script := rest }) := by
  simp [State.takeTurn, h]

/-- Taking a turn changes only the script, the round count and, at the start of a round, what the host has issued. -/
theorem takeTurn_cases (s : State) :
    (∃ u rest, s.script = u :: rest ∧ s.takeTurn = (u, { s with script := rest })) ∨
      (s.script = [] ∧ ∃ u rest, s.takeTurn = (u, s.beginRound rest)) := by
  unfold State.takeTurn
  split
  · rename_i u rest h
    exact .inl ⟨u, rest, h, rfl⟩
  · rename_i h
    refine .inr ⟨h, ?_⟩
    split
    · exact ⟨_, _, rfl⟩
    · exact ⟨_, _, rfl⟩

@[simp] theorem takeTurn_cfg (s : State) : s.takeTurn.2.cfg = s.cfg := by
  rcases takeTurn_cases s with ⟨u, rest, _, e⟩ | ⟨_, u, rest, e⟩ <;> simp [e]

@[simp] theorem takeTurn_pix (s : State) : s.takeTurn.2.pix = s.pix := by
  rcases takeTurn_cases s with ⟨u, rest, _, e⟩ | ⟨_, u, rest, e⟩ <;> simp [e]

@[simp] theorem takeTurn_enc (s : State) : s.takeTurn.2.enc = s.enc := by
  rcases takeTurn_cases s with ⟨u, rest, _, e⟩ | ⟨_, u, rest, e⟩ <;> simp [e]

@[simp] theorem takeTurn_bright (s : State) : s.takeTurn.2.bright = s.bright := by
  rcases takeTurn_cases s with ⟨u, rest, _, e⟩ | ⟨_, u, rest, e⟩ <;> simp [e]

@[simp] theorem takeTurn_phase (s : State) : s.takeTurn.2.phase = s.phase := by
  rcases takeTurn_cases s with ⟨u, rest, _, e⟩ | ⟨_, u, rest, e⟩ <;> simp [e]

@[simp] theorem takeTurn_fault (s : State) : s.takeTurn.2.fault = s.fault := by
  rcases takeTurn_cases s with ⟨u, rest, _, e⟩ | ⟨_, u, rest, e⟩ <;> simp [e]

@[simp] theorem takeTurn_pos (s : State) : s.takeTurn.2.pos = s.pos := by
  rcases takeTurn_cases s with ⟨u, rest, _, e⟩ | ⟨_, u, rest, e⟩ <;> simp [e]

@[simp] theorem takeTurn_slot (s : State) : s.takeTurn.2.slot = s.slot := by
  rcases takeTurn_cases s with ⟨u, rest, _, e⟩ | ⟨_, u, rest, e⟩ <;> simp [e]

@[simp] theorem takeTurn_gapcnt (s : State) : s.takeTurn.2.gapcnt = s.gapcnt := by
  rcases takeTurn_cases s with ⟨u, rest, _, e⟩ | ⟨_, u, rest, e⟩ <;> simp [e]

@[simp] theorem takeTurn_dout (s : State) : s.takeTurn.2.dout = s.dout := by
  rcases takeTurn_cases s with ⟨u, rest, _, e⟩ | ⟨_, u, rest, e⟩ <;> simp [e]

@[simp] theorem takeTurn_rdata (s : State) : s.takeTurn.2.rdata = s.rdata := by
  rcases takeTurn_cases s with ⟨u, rest, _, e⟩ | ⟨_, u, rest, e⟩ <;> simp [e]

@[simp] theorem takeTurn_draws (s : State) : s.takeTurn.2.draws = s.draws := by
  rcases takeTurn_cases s with ⟨u, rest, _, e⟩ | ⟨_, u, rest, e⟩ <;> simp [e]

/-! ## A step -/

/-- Everything a turn can do. -/
inductive TurnEffect (s : State) : Turn → State → Prop where
  | noTransaction (h : s.host = []) : TurnEffect s .host s
  | host (t : State) (h : HostEffect s t) : TurnEffect s .host t
  | tick (bf : Bool) (t : State) (h : TickEffect s bf t) : TurnEffect s (.tick bf) t
  | reset : TurnEffect s .reset s.applyReset

theorem turnStep_next {u : Turn} {s t : State} (h : turnStep u s = .next t) : TurnEffect s u t := by
  cases u
  case host =>
    simp only [turnStep, hostTurn, State.pending] at h
    cases hh : s.host with
    | nil =>
      simp only [hh] at h
      cases h
      exact .noTransaction hh
    | cons a q =>
      simp only [hh] at h
      split at h
      · cases h
        exact .host _ .held
      · exact .host _ (exec_next h)
      · cases h
  case tick bf => exact .tick bf t (tick_next h)
  case reset =>
    cases h
    exact .reset

/-- A step that answers a next state took a turn of a legal configuration. -/
theorem step_next {s t : State} (h : step s = .next t) :
    s.cfg.legal = true ∧ TurnEffect s.takeTurn.2 s.takeTurn.1 t := by
  unfold step at h
  split at h
  · rename_i hl
    exact ⟨hl, turnStep_next h⟩
  · cases h

theorem step_legal {s : State} (h : s.cfg.legal = true) : step s = turnStep s.takeTurn.1 s.takeTurn.2 := by
  simp [step, h]

end Sys2Proof.Machine
end

