-- ==== Sys2Proof/Laws/Runs.lean ====
section
/-!
SUPPORT. Runs step by step: `run`, the tick trace, and the first step of a run whose script gives the next turn.
-/

namespace Sys2Proof

open Sys2Proof.Machine

theorem run_zero (s : State) : run 0 s = .next s := rfl

theorem run_succ (k : Nat) {s t : State} (h : step s = .next t) : run (k + 1) s = run k t := by
  simp [run, h]

/-- `run` is the run of the host's interface. -/
theorem run_core (k : Nat) (s : State) : run k s = core.run k s := by
  induction k generalizing s with
  | zero => rfl
  | succ k ih =>
    simp only [run, Host.Core.run]
    cases h : step s with
    | next t =>
      have e : core.step s = .next t := h
      simpa [e] using ih t
    | fault f =>
      have e : core.step s = .fault f := h
      simp only [e]
      rfl
    | refused r =>
      have e : core.step s = .refused r := h
      simp only [e]
      rfl

theorem tickTrace_succ (k : Nat) {s t : State} (h : step s = .next t) :
    tickTrace (k + 1) s = if isTick s.takeTurn.1 then (s.phase, t.dout) :: tickTrace k t else tickTrace k t := by
  simp [tickTrace, h]

/-- A step whose turn the script gives. -/
theorem step_of_script {s : State} {u : Turn} {rest : List Turn} (hl : s.cfg.legal = true) (hs : s.script = u :: rest) :
    step s = turnStep u { s with script := rest } := by
  rw [step_legal hl, takeTurn_cons hs]

/-- The host's turn where the pending access has a meaning: nothing pending, or one host transaction. -/
theorem step_host {s : State} {rest : List Turn} (hl : s.cfg.legal = true) (hs : s.script = .host :: rest)
    (ha : ∀ a ∈ s.host, a.accepted = true) :
    ∃ t, step s = .next t ∧ (t = { s with script := rest } ∨ HostEffect { s with script := rest } t) := by
  rw [step_of_script hl hs]
  cases hh : s.host with
  | nil => exact ⟨_, by simp [turnStep, hostTurn, State.pending], .inl rfl⟩
  | cons a q =>
    have hacc := ha a (by simp [hh])
    unfold Access.accepted at hacc
    cases hd : a.decode with
    | error e => simp [hd] at hacc
    | ok i =>
      obtain ⟨t, ht, he⟩ := exec_effect i { s with script := rest }
      rw [hh] at ht he
      exact ⟨t, by simpa [turnStep, hostTurn, State.pending, hd] using ht, .inr he⟩

/-- Host transactions never touch the sequencer outside IDLE (R80, R126), nor ENC in BUSY (R92). -/
theorem hostEffect_outside_idle {s t : State} (h : HostEffect s t) (hp : s.phase ≠ .idle) :
    t.cfg = s.cfg ∧ t.phase = s.phase ∧ t.fault = s.fault ∧ t.pos = s.pos ∧ t.slot = s.slot ∧ t.gapcnt = s.gapcnt ∧
      t.dout = s.dout ∧ t.script = s.script ∧ (s.phase = .busy → t.enc = s.enc) ∧ ∀ a ∈ t.host, a ∈ s.host := by
  cases h with
  | held => simp
  | none => simpa using fun a ha => List.mem_of_mem_tail ha
  | reply v => simpa using fun a ha => List.mem_of_mem_tail ha
  | bright v => simpa using fun a ha => List.mem_of_mem_tail ha
  | pix i p => simpa using fun a ha => List.mem_of_mem_tail ha
  | enc hb k v => simpa [hb] using fun a ha => List.mem_of_mem_tail ha
  | encode hi => exact absurd hi hp
  | send hi => exact absurd hi hp
  | sendStream hi => exact absurd hi hp
  | idleGap hi => exact absurd hi hp

end Sys2Proof
end

