-- ==== Sys2Proof/Tests/Slice0.lean ====
section
/-!
SUPPORT. Tests: the words, values and single-step results of spec/95_test_vectors.md, the terms WellFormed refuses, and a
witness for the hypotheses of every obligation that has some, at the boundary values of its clauses.
-/

namespace Sys2Proof.Tests

open Sys2Proof Sys2Proof.Machine

/-! ## Helpers -/

/-- One field of the next state. -/
def after {α : Type} (r : Result) (f : State → α) : Option α :=
  match r with
  | .next t => some (f t)
  | .fault _ => none
  | .refused _ => none

/-- The refusal a step answers. -/
def refusal (r : Result) : Option Refusal :=
  match r with
  | .next _ => none
  | .fault _ => none
  | .refused x => some x

/-- The fault a step answers. -/
def faultOf (r : Result) : Option Fault :=
  match r with
  | .next _ => none
  | .fault x => some x
  | .refused _ => none

/-- N = 1, no header, GRB, a gap of two slots: LEN = 12. -/
def tiny : Config := ⟨1, 0, [.green, .red, .blue], 1, 1, 2⟩

/-- N = 1, a header of two bytes, RGB, a gap of one slot: LEN = 14. -/
def headed : Config := ⟨1, 2, [.red, .green, .blue], 1, 1, 1⟩

/-- A state of `tiny` in IDLE. -/
def idleState : State := { State.resetOf tiny with phase := .idle, gapcnt := 0 }

/-- A state of `tiny` in BUSY, at the first slot. -/
def busyState : State := { idleState with phase := .busy }

/-- A state of `tiny` in GAP, with the gap just started. -/
def gapState : State := State.resetOf tiny

/-- A state of `tiny` in HALTED, with the position of the slot that was not sent. -/
def haltedState : State := { idleState with phase := .halted, fault := true, pos := 11, slot := 7 }

/-- The state with the host's turn next and `w` pending. -/
def pendingWord (s : State) (w : Nat) : State := s.withFetchWord 51 w

theorem inv_idle : Inv idleState :=
  ⟨by decide, by decide, by decide, by decide, by decide, by decide, by decide, by decide, by decide, by decide, by decide⟩

theorem inv_busy : Inv busyState :=
  ⟨by decide, by decide, by decide, by decide, by decide, by decide, by decide, by decide, by decide, by decide, by decide⟩

theorem inv_gap : Inv gapState :=
  ⟨by decide, by decide, by decide, by decide, by decide, by decide, by decide, by decide, by decide, by decide, by decide⟩

theorem inv_halted : Inv haltedState :=
  ⟨by decide, by decide, by decide, by decide, by decide, by decide, by decide, by decide, by decide, by decide, by decide⟩

/-! ## WellFormed: a refused term for each check -/

theorem test_wf_accepts : (Instr.rdZero 0x00020#18).wf = true ∧ (Instr.wrIgnored 0x0001C#18 5#32).wf = true := by decide

/-- RD_ZERO at an offset that is not a multiple of 4. -/
theorem test_wf_rdZero_misaligned : (Instr.rdZero 0x00022#18).wf = false := by decide

/-- RD_ZERO at STATUS, which is another row's. -/
theorem test_wf_rdZero_other_row : (Instr.rdZero 0x00004#18).wf = false := by decide

/-- WR_IGNORED at an offset that is not a multiple of 4. -/
theorem test_wf_wrIgnored_misaligned : (Instr.wrIgnored 0x00006#18 0#32).wf = false := by decide

/-- WR_IGNORED at BRIGHT and at CTRL, which are other rows'. -/
theorem test_wf_wrIgnored_other_row :
    (Instr.wrIgnored 0x00008#18 0#32).wf = false ∧ (Instr.wrIgnored 0x00000#18 0#32).wf = false := by decide

/-! ## Decoding: words written out from the map (30_encoding.md R65, R72; 95_test_vectors.md section 2.1) -/

theorem test_decode_nop : decode 0x4000000000000#51 = .ok .nop := by rfl
theorem test_decode_send : decode 0x4000000000001#51 = .ok .send := by rfl
theorem test_decode_encode : decode 0x4000000000002#51 = .ok .encode := by rfl
theorem test_decode_sendStream : decode 0x4000000000003#51 = .ok .sendStream := by rfl
theorem test_decode_idleGap : decode 0x4000000000004#51 = .ok .idleGap := by rfl
theorem test_decode_rdStatus : decode 0x0000400000000#51 = .ok .rdStatus := by rfl
theorem test_decode_rdBright : decode 0x0000800000000#51 = .ok .rdBright := by rfl
theorem test_decode_wrBright : decode 0x40008000001FF#51 = .ok (.wrBright 0x1FF#32) := by rfl
theorem test_decode_rdParamN : decode 0x0000C00000000#51 = .ok .rdParamN := by rfl
theorem test_decode_rdParamHdr : decode 0x0001000000000#51 = .ok .rdParamHdr := by rfl
theorem test_decode_rdParamLen : decode 0x0001400000000#51 = .ok .rdParamLen := by rfl
theorem test_decode_rdParamCfg : decode 0x0001800000000#51 = .ok .rdParamCfg := by rfl
theorem test_decode_rdParamGap : decode 0x0001C00000000#51 = .ok .rdParamGap := by rfl
theorem test_decode_rdPix :
    decode 0x0100000000000#51 = .ok (.rdPix 0#10) ∧ decode 0x01FFC00000000#51 = .ok (.rdPix 1023#10) := ⟨by rfl, by rfl⟩
theorem test_decode_wrPix :
    decode 0x41FFCFF123456#51 = .ok (.wrPix 1023#10 0xFF123456#32) ∧
      decode 0x41008000000FF#51 = .ok (.wrPix 2#10 0xFF#32) := ⟨by rfl, by rfl⟩
theorem test_decode_rdEnc :
    decode 0x2000800000000#51 = .ok (.rdEnc 2#15) ∧ decode 0x3FFFC00000000#51 = .ok (.rdEnc 32767#15) := ⟨by rfl, by rfl⟩
theorem test_decode_wrEnc :
    decode 0x6002C000000FF#51 = .ok (.wrEnc 11#15 0xFF#32) ∧
      decode 0x7FFFC000001EE#51 = .ok (.wrEnc 32767#15 0x1EE#32) := ⟨by rfl, by rfl⟩
theorem test_decode_rdZero :
    decode 0x0000000000000#51 = .ok (.rdZero 0#18) ∧ decode 0x0200000000000#51 = .ok (.rdZero 0x02000#18) := ⟨by rfl, by rfl⟩
theorem test_decode_wrIgnored :
    decode 0x4001400000005#51 = .ok (.wrIgnored 0x00014#18 5#32) ∧
      decode 0x5FFFC00000007#51 = .ok (.wrIgnored 0x1FFFC#18 7#32) := ⟨by rfl, by rfl⟩

/-- The refused words of section 2.1, the order of the checks included. -/
theorem test_decode_refusals :
    decode 0x400000000000F#51 = .error .reservedCommand ∧ decode 0x4000000000010#51 = .error .ctrlReservedBits ∧
      decode 0x0000400000001#51 = .error .readDataNonzero ∧ decode 0x0000200000000#51 = .error .misaligned ∧
      decode 0x0100100000000#51 = .error .misaligned := ⟨by rfl, by rfl, by rfl, by rfl, by rfl⟩

/-- The words of programs P1 and P4 of section 3, from the encoder. -/
theorem test_encode_words :
    encode (.wrPix 1#10 0x00FF00#32) = 0x410040000FF00#51 ∧ encode (.wrEnc 11#15 0xFF#32) = 0x6002C000000FF#51 ∧
      encode (.rdEnc 37#15) = 0x2009400000000#51 ∧ encode (.wrIgnored 0x00004#18 0xFFFFFFFF#32) = 0x40004FFFFFFFF#51 := by
  decide

theorem test_decodeTableWord :
    decodeTableWord 51 0x0000400000000 = some .rdStatus ∧ decodeTableWord 56 0x4000000000001 = some .send ∧
      decodeTableWord 51 0x0000400000001 = none := ⟨by rfl, by rfl, by rfl⟩

/-- The very next step after `withFetchWord` runs the word: RD_STATUS right after reset returns GAP (section 2.2). -/
theorem test_withFetchWord : after (step (State.reset.withFetchWord 51 0x0000400000000)) State.rdata = some 2#32 := by rfl

/-- R77, R78: the words of statements of the host syntax (program P1). -/
theorem test_syntax :
    (Stmt.wr (.pix 0#10) 0xFF0000#32).access.transcribe = .ok 0x4100000FF0000#51 ∧
      (Stmt.cmd .send).access.transcribe = .ok 0x4000000000001#51 ∧
      (sendWaitStmts 2).map (fun s => s.access.decode) = [.ok .send, .ok .rdStatus, .ok .rdStatus, .ok .rdStatus] ∧
      (loadFrameStmts 0 [1#32, 2#32]).map (fun s => s.access.decode) =
        [.ok (.wrPix 0#10 1#32), .ok (.wrPix 1#10 2#32)] := ⟨by rfl, by rfl, by rfl, by rfl⟩

/-! ## Host access (section 2.2) -/

theorem test_rdStatus :
    after (exec .rdStatus busyState) State.rdata = some 1#32 ∧ after (exec .rdStatus haltedState) State.rdata = some 4#32 := by
  decide

theorem test_rdBright : after (exec .rdBright State.reset) State.rdata = some 0xFF#32 := by decide

theorem test_wrBright : after (exec (.wrBright 0x119#32) busyState) State.bright = some 0x19#8 := by decide

theorem test_rdParams :
    after (exec .rdParamN State.reset) State.rdata = some 3#32 ∧
      after (exec .rdParamHdr (State.resetOf headed)) State.rdata = some 2#32 ∧
      after (exec .rdParamLen (State.resetOf headed)) State.rdata = some 14#32 := by decide

theorem test_rdParamCfg :
    after (exec .rdParamCfg State.reset) State.rdata = some 1#32 ∧
      after (exec .rdParamCfg (State.resetOf headed)) State.rdata = some 0#32 := by decide

theorem test_rdParamGap : after (exec .rdParamGap State.reset) State.rdata = some 0xA0#32 := by decide

/-- WR PIX[2], 0xAB123456, then RD PIX[2], and the same at index 3 = N. -/
theorem test_pix :
    after (exec (.rdPix 2#10) (State.reset.writePix 2 (colorOfWord 0xAB123456#32))) State.rdata = some 0x123456#32 ∧
      after (exec (.rdPix 3#10) (State.reset.writePix 3 (colorOfWord 0xFFFFFF#32))) State.rdata = some 0#32 := by decide

theorem test_wrPix :
    after (exec (.wrPix 2#10 0xAB123456#32) State.reset) (fun t => t.pixAt 2) = some ⟨0x12#8, 0x34#8, 0x56#8⟩ ∧
      after (exec (.wrPix 3#10 0xFFFFFF#32) State.reset) State.pix = some [] := by decide

theorem test_rdEnc :
    after (exec (.rdEnc 5#15) { idleState with enc := [(5, 0xEE#8)] }) State.rdata = some 0xEE#32 ∧
      after (exec (.rdEnc 12#15) idleState) State.rdata = some 0#32 := by decide

/-- Held in BUSY; in IDLE 0x1EE stores 0xEE, and storing 0x00 removes the entry. -/
theorem test_wrEnc :
    after (exec (.wrEnc 5#15 0x1EE#32) idleState) State.enc = some [(5, 0xEE#8)] ∧
      after (exec (.wrEnc 5#15 0x100#32) { idleState with enc := [(5, 0xEE#8)] }) State.enc = some [] ∧
      after (exec (.wrEnc 100#15 0xEE#32) busyState) id = some busyState := by decide

theorem test_rdZero : after (exec (.rdZero 0x00020#18) { State.reset with rdata := 7#32 }) State.rdata = some 0#32 := by decide

theorem test_wrIgnored : after (exec (.wrIgnored 0x00004#18 0xFFFFFFFF#32) haltedState) id = some haltedState := by decide

/-! ## The encoder (section 2.3) -/

theorem test_scale8 :
    scale8 254#8 254#8 = 253#8 ∧ scale8 100#8 25#8 = 9#8 ∧ scale8 1#8 254#8 = 0#8 ∧ scale8 17#8 15#8 = 1#8 ∧
      scale8 255#8 255#8 = 255#8 := by decide

theorem test_enc8 :
    enc8 0xA5#8 = [0xE8#8, 0xE8#8, 0x8E#8, 0x8E#8] ∧ enc8 0x36#8 = [0x88#8, 0xEE#8, 0x8E#8, 0xE8#8] ∧
      enc8 0x01#8 = [0x88#8, 0x88#8, 0x88#8, 0x8E#8] := by decide

/-- [0xFF0080] at factor 255 in GRB, and [0x123456] after a header in RGB. -/
theorem test_stream :
    encodeStream tiny (fun _ => ⟨0xFF#8, 0x00#8, 0x80#8⟩) 255#8 =
        [0x88#8, 0x88#8, 0x88#8, 0x88#8, 0xEE#8, 0xEE#8, 0xEE#8, 0xEE#8, 0xE8#8, 0x88#8, 0x88#8, 0x88#8] ∧
      encodeStream headed (fun _ => ⟨0x12#8, 0x34#8, 0x56#8⟩) 255#8 =
        [0x00#8, 0x00#8, 0x88#8, 0x8E#8, 0x88#8, 0xE8#8, 0x88#8, 0xEE#8, 0x8E#8, 0x88#8, 0x8E#8, 0x8E#8, 0x8E#8, 0xE8#8] := by
  decide

theorem test_symbolStart :
    symbolStart tiny 0 0 0 = 28 ∧ symbolStart tiny 2 2 0 = 284 ∧ symbolStart tiny 86 2 0 = 8348 ∧
      symbolStart headed 0 0 7 = 16 := by decide

/-! ## Commands (section 2.4) -/

theorem test_nop : after (exec .nop idleState) id = some idleState ∧ after (exec .nop gapState) id = some gapState := by decide

theorem test_send :
    after (exec .send idleState) (fun t => (t.phase, t.encAt 0, t.encAt 11, statusWord t)) =
      some (.busy, 0x88#8, 0x88#8, 1#32) := by decide

/-- Dropped in HALTED: the transaction completes and nothing else changes. -/
theorem test_send_dropped : after (exec .send (pendingWord haltedState 0x4000000000001)) State.host = some [] := by decide

/-- The header is rewritten with 0x00 (R102, R111), and PHASE stays IDLE. -/
theorem test_encode :
    after (exec .encode { State.resetOf headed with phase := .idle, gapcnt := 0, enc := [(0, 0x55#8)] })
      (fun t => (t.phase, t.encAt 0, t.encAt 2)) = some (.idle, 0x00#8, 0x88#8) := by decide

theorem test_sendStream :
    after (exec .sendStream { idleState with enc := [(11, 0xFF#8)] }) (fun t => (t.phase, t.enc)) =
      some (.busy, [(11, 0xFF#8)]) := by decide

theorem test_idleGap :
    after (exec .idleGap idleState) (fun t => (t.phase, t.gapcnt, statusWord t)) = some (.gap, 2, 2#32) := by decide

/-- A command held in GAP stays pending and changes nothing. -/
theorem test_command_held :
    after (step (pendingWord State.reset 0x4000000000001)) (fun t => (t.phase, t.host.length)) = some (.gap, 1) := by rfl

/-! ## The device tick (section 2.4), on ENC = 88 88 88 88 EE EE EE EE E8 88 88 88 -/

/-- BUSY with the stream of the section's single-tick vectors. -/
def shiftState (pos : Nat) (slot : Fin 8) : State :=
  { busyState with
    enc := Store.ofList encUnlisted 0
      [0x88#8, 0x88#8, 0x88#8, 0x88#8, 0xEE#8, 0xEE#8, 0xEE#8, 0xEE#8, 0xE8#8, 0x88#8, 0x88#8, 0x88#8]
    pos := pos, slot := slot }

theorem test_tick_idle : after (tick true { idleState with dout := true }) State.dout = some false := by decide

theorem test_tick_busy_first :
    after (tick false (shiftState 0 0)) (fun t => (t.phase, t.pos, t.slot, t.dout)) = some (.busy, 0, 1, true) := by decide

theorem test_tick_busy_byte :
    after (tick false (shiftState 0 7)) (fun t => (t.pos, t.slot, t.dout)) = some (1, 0, false) ∧
      after (tick false (shiftState 4 2)) (fun t => (t.pos, t.slot, t.dout)) = some (4, 3, true) := by decide

theorem test_tick_busy_last :
    after (tick false (shiftState 11 7)) (fun t => (t.phase, t.gapcnt, t.pos, t.slot)) = some (.gap, 2, 0, 0) := by decide

/-- The fault wins over the end of the frame. -/
theorem test_tick_fault :
    after (tick true (shiftState 11 7)) (fun t => (t.phase, t.fault, t.pos, t.slot, t.gapcnt)) =
      some (.halted, true, 11, 7, 0) := by decide

theorem test_tick_gap :
    after (tick true State.reset) (fun t => (t.phase, t.gapcnt)) = some (.gap, 159) ∧
      after (tick true { gapState with gapcnt := 1 }) (fun t => (t.phase, t.gapcnt)) = some (.idle, 0) := by decide

theorem test_tick_halted : after (tick false haltedState) (fun t => (t.phase, t.fault, t.pos)) = some (.halted, true, 11) := by
  decide

/-- The cause table of R150: code 1, raised by the faulting BUSY tick, by no tick in GAP, and recorded as FAULT = 1. -/
theorem test_cause :
    (tickRaises true (shiftState 11 7)).map Cause.code = some 1 ∧ tickRaises true gapState = none ∧
      tickRaises false (shiftState 0 0) = none ∧
      after (tick true (shiftState 0 0)) State.recordedCause = some (some .busFault) := by decide

/-- The two stops in states that no run reaches. -/
theorem test_stops :
    faultOf (tick false { busyState with pos := 12 }) = some .streamPosition ∧
      faultOf (tick false { gapState with gapcnt := 0 }) = some .gapCounter := by decide

/-! ## Reset, refusals, configuration (sections 2.5, 2.6) -/

theorem test_reset_status : statusWord State.reset = 2#32 ∧ State.reset.gapcnt = 160 := by decide

theorem test_reset_halted :
    after (step { haltedState with script := [.reset] }) (fun t => (t.phase, t.fault, t.gapcnt, t.script)) =
      some (.gap, false, 2, []) := by rfl

theorem test_step_refused :
    refusal (step (pendingWord State.reset 0x4000000000005)) = some .reservedCommand ∧
      refusal (step { gapState with script := [.host], host := [⟨false, 2, 0x00004#18, 0#32⟩] }) = some .badWidth :=
  ⟨by rfl, by rfl⟩

theorem test_bad_config :
    refusal (step (State.resetOf { tiny with n := 0 })) = some .badConfig ∧
      refusal (step (State.resetOf { tiny with order := [.blue, .green, .red] })) = some .badConfig ∧
      refusal (step (State.resetOf { tiny with resetMin := 3 })) = some .badConfig := ⟨by rfl, by rfl, by rfl⟩

/-! ## Witnesses: each obligation's hypotheses are met, at the boundary values of its clauses -/

/-- The largest legal configuration: N = 1024, HEADER_LEN = 4096, LEN = 16384. -/
def largest : Config := ⟨1024, 4096, [.red, .green, .blue], 1, 1, 1⟩

/-- The pending access of a witness, with the host's turn next. -/
def pendingAccess (s : State) (a : Access) : State := { s with host := [a], script := [.host] }

/-- One word for each branch: misaligned, read data, reserved bits (D = 16), reserved command (D = 5), a row of each kind. -/
theorem witness_DecodeStepsInOrder :
    (txnOffset 0x3FFFD00000000#51).toNat % 4 = 1 ∧
      ((txnOffset 0x0000400000001#51).toNat % 4 = 0 ∧ txnWrite 0x0000400000001#51 = false ∧
        txnData 0x0000400000001#51 = 1#32) ∧
      (txnOffset 0x4000000000010#51 = 0#18 ∧ (txnData 0x4000000000010#51).toNat / 16 = 1) ∧
      (txnOffset 0x4000000000005#51 = 0#18 ∧ (txnData 0x4000000000005#51).toNat = 5) ∧
      (exactRows.map (fun r => r.admits 0x4000000000004#51)).count true = 1 ∧
      (exactRows.map (fun r => r.admits 0x01FFC00000000#51)).count true = 1 ∧
      (exactRows.map (fun r => r.admits 0x0200000000000#51)).count true = 0 ∧
      (catchAllRows.map (fun r => r.admits 0x0200000000000#51)) = [true, false] ∧
      (catchAllRows.map (fun r => r.admits 0x5FFFC00000007#51)) = [false, true] := by decide

theorem witness_DecodeOfEncode :
    (Instr.wrEnc 32767#15 0xFFFFFFFF#32).wf = true ∧ (Instr.rdZero 0x1FFFC#18).wf = true ∧
      (Instr.wrIgnored 0x0001C#18 0xFFFFFFFF#32).wf = true := by decide

theorem witness_EncodeOfDecode : decode 0x7FFFC000001EE#51 = .ok (.wrEnc 32767#15 0x1EE#32) := by rfl

theorem witness_StepRunsDecodedInstruction :
    ∃ (s : State) (a : Access), s.cfg.legal = true ∧ s.script = .host :: [] ∧ s.host = a :: [] ∧ a.width = 4 ∧
      decode (mkTxn a.write a.offset a.data) = .ok .send :=
  ⟨pendingAccess idleState ⟨true, 4, 0#18, 1#32⟩, ⟨true, 4, 0#18, 1#32⟩, by rfl, by rfl, by rfl, by rfl, by rfl⟩

theorem witness_StepPerformsTheTurn :
    ∃ s₁ s₂ s₃ : State, (s₁.cfg.legal = true ∧ s₁.script = [.tick true]) ∧ (s₂.cfg.legal = true ∧ s₂.script = [.reset]) ∧
      (s₃.cfg.legal = true ∧ s₃.script = [.host] ∧ s₃.host = []) :=
  ⟨{ busyState with script := [.tick true] }, { busyState with script := [.reset] }, { busyState with script := [.host] },
    by decide, by decide, by decide⟩

/-- One access for each branch, the boundary values D = 4, 5, 15, 16 of a CTRL write among them. -/
theorem witness_RefusalsInOrder :
    refusal (step (pendingAccess idleState ⟨false, 1, 0x00004#18, 0#32⟩)) = some .badWidth ∧
      refusal (step (pendingAccess idleState ⟨false, 4, 0x3FFFE#18, 0#32⟩)) = some .misaligned ∧
      refusal (step (pendingAccess idleState ⟨false, 4, 0x00000#18, 1#32⟩)) = some .readDataNonzero ∧
      refusal (step (pendingAccess idleState ⟨true, 4, 0x00000#18, 16#32⟩)) = some .ctrlReservedBits ∧
      refusal (step (pendingAccess idleState ⟨true, 4, 0x00000#18, 15#32⟩)) = some .reservedCommand ∧
      refusal (step (pendingAccess idleState ⟨true, 4, 0x00000#18, 5#32⟩)) = some .reservedCommand ∧
      after (step (pendingAccess idleState ⟨true, 4, 0x00000#18, 4#32⟩)) State.phase = some .gap :=
  ⟨by rfl, by rfl, by rfl, by rfl, by rfl, by rfl, by rfl⟩

/-- A configuration beyond each bound of R6. -/
theorem witness_IllegalConfigurationRefused :
    Config.legal { tiny with n := 0 } = false ∧ Config.legal { tiny with n := 1025 } = false ∧
      Config.legal { tiny with headerLen := 4097 } = false ∧ Config.legal { tiny with order := [.red] } = false ∧
      Config.legal { tiny with tSlot := 0 } = false ∧ Config.legal { tiny with resetMin := 0 } = false ∧
      Config.legal { tiny with resetTicks := 0 } = false ∧ Config.legal { tiny with resetMin := 3 } = false := by decide

theorem witness_FreeRoundEndsWithTick : State.reset.script = [] := by rfl

theorem witness_ReadStatusReturnsFlags : Inv haltedState ∧ haltedState.phase = .halted := ⟨inv_halted, by rfl⟩

theorem witness_StatusValues :
    (Inv idleState ∧ statusWord idleState = 0#32) ∧ (Inv busyState ∧ statusWord busyState = 1#32) ∧
      (Inv gapState ∧ statusWord gapState = 2#32) ∧ (Inv haltedState ∧ statusWord haltedState = 4#32) :=
  ⟨⟨inv_idle, by decide⟩, ⟨inv_busy, by decide⟩, ⟨inv_gap, by decide⟩, ⟨inv_halted, by decide⟩⟩

/-- Both ends of the ranges of N and LEN. -/
theorem witness_ReadParamsReturnConfiguration :
    tiny.legal = true ∧ tiny.len = 12 ∧ largest.legal = true ∧ largest.len = 16384 := by decide

/-- The largest RESET_TICKS that PARAM_GAP can return, and the first legal one beyond. -/
theorem witness_ReadParamGapReturnsResetTicks :
    Config.legal { tiny with resetTicks := 4294967295 } = true ∧
      Config.paramGap { tiny with resetTicks := 4294967295 } = 0xFFFFFFFF#32 ∧
      Config.legal { tiny with resetTicks := 4294967296 } = true := ⟨by rfl, by rfl, by rfl⟩

/-- R88: the free value beyond 2^32 lies in [1, 2^32 - 1], both ends included. -/
theorem test_atLeastOne :
    atLeastOne 0#32 = 1#32 ∧ atLeastOne 0xFFFFFFFE#32 = 0xFFFFFFFF#32 ∧ atLeastOne 0xFFFFFFFF#32 = 1#32 := by decide

theorem witness_ReadPixReturnsColor :
    after (exec (.rdPix 0#10) { idleState with pix := [(0, ⟨1#8, 2#8, 3#8⟩)] }) State.rdata = some 0x010203#32 ∧
      after (exec (.rdPix 1#10) { idleState with pix := [(0, ⟨1#8, 2#8, 3#8⟩)] }) State.rdata = some 0#32 := by decide

/-- The last pixel, the index N, and the last index of the window. -/
theorem witness_WritePixStoresColor :
    Inv busyState ∧ after (exec (.wrPix 0#10 0xAB010203#32) busyState) State.pix = some [(0, ⟨1#8, 2#8, 3#8⟩)] ∧
      after (exec (.wrPix 1#10 0xAB010203#32) busyState) State.pix = some [] ∧
      after (exec (.wrPix 1023#10 0xAB010203#32) busyState) State.pix = some [] := ⟨inv_busy, by decide, by decide, by decide⟩

theorem witness_ReadEncReturnsByte :
    after (exec (.rdEnc 11#15) (shiftState 0 0)) State.rdata = some 0x88#32 ∧
      after (exec (.rdEnc 12#15) (shiftState 0 0)) State.rdata = some 0#32 := by decide

/-- BUSY, and elsewhere the last byte and the index LEN. -/
theorem witness_WriteEncHoldsOrStores :
    (Inv busyState ∧ busyState.phase = .busy) ∧ (Inv gapState ∧ gapState.phase ≠ .busy) ∧
      after (exec (.wrEnc 11#15 0xFF#32) gapState) State.enc = some [(11, 0xFF#8)] ∧
      after (exec (.wrEnc 12#15 0xFF#32) haltedState) State.enc = some [] :=
  ⟨⟨inv_busy, by rfl⟩, ⟨inv_gap, by decide⟩, by decide, by decide⟩

/-- Both ends of each range of offsets. -/
theorem witness_ReadZeroReturnsZero :
    [0x00000#18, 0x00020#18, 0x00FFC#18, 0x02000#18, 0x1FFFC#18].map (fun a => decode (mkTxn false a 0#32)) =
      [.ok (.rdZero 0x00000#18), .ok (.rdZero 0x00020#18), .ok (.rdZero 0x00FFC#18), .ok (.rdZero 0x02000#18),
        .ok (.rdZero 0x1FFFC#18)] := by rfl

theorem witness_WriteIgnoredChangesNothing :
    [0x00004#18, 0x0000C#18, 0x0001C#18, 0x00020#18, 0x00FFC#18, 0x02000#18, 0x1FFFC#18].map
        (fun a => decode (mkTxn true a 7#32)) =
      [.ok (.wrIgnored 0x00004#18 7#32), .ok (.wrIgnored 0x0000C#18 7#32), .ok (.wrIgnored 0x0001C#18 7#32),
        .ok (.wrIgnored 0x00020#18 7#32), .ok (.wrIgnored 0x00FFC#18 7#32), .ok (.wrIgnored 0x02000#18 7#32),
        .ok (.wrIgnored 0x1FFFC#18 7#32)] := by rfl

/-- A row that is no command, and the one that does not complete. -/
theorem witness_HostAccessFrame :
    Instr.rdStatus ∉ [Instr.nop, .send, .encode, .sendStream, .idleGap] ∧
      Instr.wrEnc 0#15 0#32 ∉ [Instr.nop, .send, .encode, .sendStream, .idleGap] ∧
      after (exec (.wrEnc 0#15 0#32) busyState) id = some busyState := by decide

/-- The aligned offsets at the ends of the map's rows. -/
theorem witness_ReadsFollowAddressMap :
    [0x00000#18, 0x00FFC#18, 0x01000#18, 0x01FFC#18, 0x02000#18, 0x1FFFC#18, 0x20000#18, 0x3FFFC#18].map regionOf =
      [.ctrl, .reserved, .pix 0, .pix 1023, .reserved, .reserved, .enc 0, .enc 32767] := by decide

theorem witness_WindowReadBack :
    Inv busyState ∧ (0#10).toNat < busyState.cfg.n ∧ ¬ (1#10).toNat < busyState.cfg.n ∧
      (Inv idleState ∧ idleState.phase ≠ .busy ∧ (11#15).toNat < idleState.cfg.len ∧ ¬ (12#15).toNat < idleState.cfg.len) :=
  ⟨inv_busy, by decide, by decide, inv_idle, by decide, by decide, by decide⟩

/-- The acceptance table of section 2.4, one command a phase. -/
theorem witness_CommandAcceptance :
    after (exec .idleGap idleState) State.phase = some .gap ∧ after (exec .send busyState) id = some busyState ∧
      after (exec .encode gapState) id = some gapState ∧ after (exec .sendStream haltedState) id = some haltedState := by
  decide

theorem witness_commands_in_idle : Inv idleState ∧ idleState.phase = .idle := ⟨inv_idle, by rfl⟩

/-- The shift step at each branch: inside a byte, at the end of a byte, at the end of the frame. -/
theorem witness_BusyTickShifts :
    (shiftState 0 6).phase = .busy ∧ (shiftState 0 6).pos < (shiftState 0 6).cfg.len ∧
      after (tick false (shiftState 0 6)) (fun t => (t.phase, t.pos, t.slot)) = some (.busy, 0, 7) ∧
      after (tick false (shiftState 10 7)) (fun t => (t.phase, t.pos, t.slot)) = some (.busy, 11, 0) ∧
      after (tick false (shiftState 11 6)) (fun t => (t.phase, t.pos, t.slot)) = some (.busy, 11, 7) ∧
      after (tick false (shiftState 11 7)) (fun t => (t.phase, t.pos, t.slot)) = some (.gap, 0, 0) := by decide

theorem witness_GapTickCountsDown :
    gapState.phase = .gap ∧ 1 ≤ gapState.gapcnt ∧
      after (tick false gapState) (fun t => (t.phase, t.gapcnt)) = some (.gap, 1) := by decide

theorem witness_HaltedTickChangesOnlyLine : haltedState.phase = .halted := by rfl

theorem witness_TickIgnoresPixAndBright : ∃ t, tick false (shiftState 0 0) = .next t := ⟨_, rfl⟩

theorem witness_LineLowOutsideFrame :
    (∃ t, tick true { idleState with dout := true } = .next t) ∧ ∃ t, tick true { gapState with dout := true } = .next t :=
  ⟨⟨_, rfl⟩, ⟨_, rfl⟩⟩

theorem witness_ResetFromEveryPhase :
    [idleState, busyState, gapState, haltedState].map (fun s => after (step { s with script := [.reset] }) State.phase) =
      [some .gap, some .gap, some .gap, some .gap] := by rfl

theorem witness_ScaleLaws :
    (127#8).toNat ≤ (128#8).toNat ∧ (127#8).toNat * (2#8).toNat < 255 ∧ ¬ (17#8).toNat * (15#8).toNat < 255 := by decide

/-- The first and last index of each range: header bytes, stream bytes, channels, bits and slots. -/
theorem witness_stream_positions :
    headed.legal = true ∧ 13 < headed.len ∧ streamByte headed (fun _ => ⟨0x12#8, 0x34#8, 0x56#8⟩) 255#8 1 = 0x00#8 ∧
      streamByte headed (fun _ => ⟨0x12#8, 0x34#8, 0x56#8⟩) 255#8 2 = 0x88#8 ∧
      streamByte headed (fun _ => ⟨0x12#8, 0x34#8, 0x56#8⟩) 255#8 13 = 0xE8#8 ∧
      8 * headed.headerLen + 96 * 0 + 32 * 2 + 4 * (7 - 0) + 3 = 8 * headed.len - 1 := by decide

theorem witness_StreamRoundTrip :
    tiny.legal = true ∧ enc8 0x9C#8 = [0xE8#8, 0x8E#8, 0xEE#8, 0x88#8] ∧
      dec8 0xE8#8 0x8E#8 0xEE#8 0x88#8 = some 0x9C#8 ∧ dec8 0xFF#8 0x88#8 0x88#8 0x88#8 = none := by decide

theorem witness_PowerOnSatisfiesInvariants : tiny.legal = true ∧ largest.legal = true ∧ Config.vectors.legal = true := by decide

/-- A step of each agent from a state in which the invariants hold. -/
theorem witness_StepKeepsInvariants :
    (Inv { busyState with script := [.tick true] } ∧ ∃ t, step { busyState with script := [.tick true] } = .next t) ∧
      (∃ t, step { gapState with script := [.reset] } = .next t) ∧
      ∃ t, step (pendingAccess idleState ⟨true, 4, 0#18, 3#32⟩) = .next t :=
  ⟨⟨⟨by decide, by decide, by decide, by decide, by decide, by decide, by decide, by decide, by decide, by decide, by decide⟩,
    ⟨_, rfl⟩⟩, ⟨_, rfl⟩, ⟨_, rfl⟩⟩

theorem witness_InvariantsExcludeStops : Inv idleState ∧ Inv busyState ∧ Inv gapState ∧ Inv haltedState :=
  ⟨inv_idle, inv_busy, inv_gap, inv_halted⟩

theorem witness_ConfigurationIsFixed : ∃ t, step { idleState with script := [.tick false] } = .next t := ⟨_, rfl⟩

/-- A cause is raised; FAULT is set by a faulting BUSY tick and cleared by RESET. -/
theorem witness_FaultIsSticky :
    tickRaises true busyState = some .busFault ∧
    after (step { busyState with script := [.tick true] }) State.fault = some true ∧
      after (step { haltedState with script := [.reset] }) State.fault = some false := ⟨by rfl, by rfl, by rfl⟩

/-- Rows of the transition table: the commands in IDLE, the end of a frame, the end of a gap. -/
theorem witness_PhaseTransitionTable :
    after (step (pendingAccess idleState ⟨true, 4, 0#18, 1#32⟩)) State.phase = some .busy ∧
      after (step (pendingAccess idleState ⟨true, 4, 0#18, 3#32⟩)) State.phase = some .busy ∧
      after (step (pendingAccess idleState ⟨true, 4, 0#18, 4#32⟩)) State.phase = some .gap ∧
      after (step { busyState with pos := 11, slot := 7, script := [.tick false] }) State.phase = some .gap ∧
      after (step { gapState with gapcnt := 1, script := [.tick true] }) State.phase = some .idle :=
  ⟨by rfl, by rfl, by rfl, by rfl, by rfl⟩

theorem witness_HaltedIsTerminal :
    ({ haltedState with script := [.tick false] } : State).takeTurn.1 ≠ .reset ∧
      after (step { haltedState with script := [.tick false] }) State.pos = some 11 := ⟨by decide, by rfl⟩

theorem witness_EncFixedWhileBusy :
    (pendingAccess busyState ⟨true, 4, 0x20000#18, 1#32⟩).takeTurn.1 ≠ .reset ∧
      after (step (pendingAccess busyState ⟨true, 4, 0x20000#18, 1#32⟩)) State.enc = some [] := ⟨by decide, by rfl⟩

/-- The frame of the witness below: a poll of STATUS, then the 96 ticks of a 12-byte frame. -/
def frameTurns : List Turn := .host :: List.replicate 96 (.tick false)

/-- IDLE, with SEND and a poll issued, the turns of the frame and of a gap of two ticks to come. -/
def frameStart : State :=
  { idleState with host := [⟨true, 4, 0#18, 1#32⟩, ⟨false, 4, 0x00004#18, 0#32⟩], script := frameTurns ++ [.tick true, .tick false] }

theorem frameTurns_ticks : frameTurns.countP isTick = 96 := by
  rw [frameTurns, List.countP_cons_of_neg (by decide), List.countP_replicate]
  rfl

theorem frameTurns_last : frameTurns.getLast? = some (.tick false) := by
  rw [frameTurns, List.getLast?_cons, List.getLast?_replicate]
  rfl

/-- `frameStart` after SEND. -/
def frameSent : State := frameStart.loadStream.startFrame.complete

theorem frameTurns_healthy (u : Turn) (h : u ∈ frameTurns) : healthy u = true := by
  simp only [frameTurns, List.mem_cons, List.mem_replicate] at h
  rcases h with rfl | ⟨_, rfl⟩ <;> rfl

theorem witness_FrameTrace :
    Inv frameStart ∧ frameStart.phase = .idle ∧ exec .send frameStart = .next frameSent ∧
      (∀ a ∈ frameSent.host, a.accepted = true) ∧ frameSent.script = frameTurns ++ [.tick true, .tick false] ++ [] ∧
      (∀ u ∈ frameTurns, healthy u = true) ∧ frameTurns.countP isTick = 8 * frameSent.cfg.len ∧
      frameTurns.getLast? = some (.tick false) ∧ (∀ u ∈ [Turn.tick true, .tick false], noReset u = true) ∧
      [Turn.tick true, .tick false].countP isTick = frameSent.cfg.resetTicks ∧
      [Turn.tick true, .tick false].getLast? = some (.tick false) :=
  ⟨⟨by rfl, by decide, by decide, by decide, by decide, by decide, by decide, by decide, by decide, by decide, by decide⟩,
    by rfl, by rfl, by decide, by rfl, frameTurns_healthy, frameTurns_ticks, frameTurns_last, by decide, by rfl, by rfl⟩

/-- One tick is left of the gap; then SEND, held until now, is accepted. -/
theorem witness_ResetGapEnforced :
    after (run 2 { gapState with gapcnt := 1, host := [⟨true, 4, 0#18, 1#32⟩], script := [.tick false, .host] }) State.phase =
      some .busy := by rfl

/-- BUSY, with SEND and a poll issued, and the turns until IDLE: a host turn that holds, the 96 ticks of the frame, another
host turn that holds, the two ticks of the gap. -/
def heldState : State :=
  { busyState with
    host := [⟨true, 4, 0#18, 1#32⟩, ⟨false, 4, 0x00004#18, 0#32⟩]
    script := (frameTurns ++ [.host, .tick false, .tick false]) ++ [.host] }

theorem heldTurns_healthy (u : Turn) (h : u ∈ frameTurns ++ [.host, .tick false, .tick false]) : healthy u = true := by
  rcases List.mem_append.mp h with h | h
  · exact frameTurns_healthy u h
  · simp only [List.mem_cons, List.not_mem_nil, or_false] at h
    rcases h with rfl | rfl | rfl <;> rfl

theorem heldTurns_ticks :
    (frameTurns ++ [Turn.host, .tick false, .tick false]).countP isTick = 8 * heldState.cfg.len + heldState.cfg.resetTicks := by
  rw [List.countP_append, frameTurns_ticks]
  rfl

theorem witness_HoldEndsInTime :
    Inv heldState ∧ heldState.phase ≠ .halted ∧
      heldState.host = ⟨true, 4, 0#18, 1#32⟩ :: [⟨false, 4, 0x00004#18, 0#32⟩] ∧
      Access.decode ⟨true, 4, 0#18, 1#32⟩ = .ok .send ∧ Instr.send ∈ [Instr.nop, .send, .encode, .sendStream, .idleGap] ∧
      heldState.script = (frameTurns ++ [.host, .tick false, .tick false]) ++ [.host] ∧
      (∀ u ∈ frameTurns ++ [.host, .tick false, .tick false], healthy u = true) ∧
      (frameTurns ++ [Turn.host, .tick false, .tick false]).countP isTick =
        8 * heldState.cfg.len + heldState.cfg.resetTicks :=
  ⟨⟨by rfl, by decide, by decide, by decide, by decide, by decide, by decide, by decide, by decide, by decide, by decide⟩,
    by decide, by rfl, by rfl, by decide, by rfl, heldTurns_healthy, heldTurns_ticks⟩

/-- The gap ends and the host polls STATUS: a run of two steps without RESET whose last state is a good end. -/
theorem witness_EndedWellIsClean :
    ∃ s t : State, run 2 s = .next t ∧ resetFree 2 s = true ∧ t.host = [] ∧ t.phase = .idle ∧ t.fault = false :=
  ⟨{ gapState with gapcnt := 1, host := [⟨false, 4, 0x00004#18, 0#32⟩], script := [.tick false, .host] }, _, rfl, by rfl,
    rfl, rfl, rfl⟩

/-- RESET is what the premise must shut out: HALTED, then RESET, the gap and a poll ends in such a state as well. -/
theorem test_reset_after_halted :
    after (run 4 { haltedState with host := [⟨false, 4, 0x00004#18, 0#32⟩], script := [.reset, .tick false, .tick false, .host] })
      endState = some true := by rfl

end Sys2Proof.Tests
end

section
/-!
SUPPORT. The proofs of family 00_scope.md: what a turn is (R5), that a decoded instruction is well-formed (R67), the legal
configurations (R6, R7), and that no step changes the configuration (R20).
-/

namespace Sys2Proof

open Sys2Proof.Machine

/-! ## The configuration (R6, R7, R20) -/

theorem Config.legal_iff (c : Config) :
    c.legal = true ↔ (1 ≤ c.n ∧ c.n ≤ 1024) ∧ c.headerLen ≤ 4096 ∧
      (c.order = [.red, .green, .blue] ∨ c.order = [.green, .red, .blue]) ∧ 1 ≤ c.tSlot ∧ 1 ≤ c.resetMin ∧
        1 ≤ c.resetTicks ∧ c.resetMin ≤ c.resetTicks * c.tSlot := by
  simp only [Config.legal, Bool.and_eq_true, Bool.or_eq_true, decide_eq_true_eq, beq_iff_eq, ChannelOrder.rgb,
    ChannelOrder.grb, and_assoc]

theorem step_illegal {s : State} (h : ¬ s.cfg.legal = true) : step s = .refused .badConfig := if_neg h

theorem hostEffect_cfg {s t : State} (h : HostEffect s t) : t.cfg = s.cfg := by
  cases h <;> simp

theorem tickEffect_cfg {s t : State} {bf : Bool} (h : TickEffect s bf t) : t.cfg = s.cfg := by
  cases h <;> simp

theorem turnEffect_cfg {s t : State} {u : Turn} (h : TurnEffect s u t) : t.cfg = s.cfg := by
  cases h with
  | noTransaction => rfl
  | host t h => exact hostEffect_cfg h
  | tick bf t h => exact tickEffect_cfg h
  | reset => exact State.applyReset_cfg s

/-- Settles O51: a step takes a turn, and neither the turn's taking nor its effect touches the configuration. -/
theorem configurationIsFixed : Obligations.ConfigurationIsFixed := by
  intro s t h
  obtain ⟨_, he⟩ := step_next h
  rw [turnEffect_cfg he, takeTurn_cfg]

/-- Settles O10: the constraints written out are `Config.legal`, which `step` tests first. -/
theorem illegalConfigurationRefused : Obligations.IllegalConfigurationRefused := by
  intro s h
  exact step_illegal fun hl => h (s.cfg.legal_iff.mp hl)

/-! ## The host's turn (R53, R57) -/

theorem hostTurn_nil {s : State} (h : s.host = []) : hostTurn s = .next s := by
  simp [hostTurn, State.pending, h]

theorem hostTurn_cons {s : State} {a : Access} {q : List Access} {i : Instr} (h : s.host = a :: q)
    (hd : a.decode = .ok i) : hostTurn s = exec i s := by
  simp [hostTurn, State.pending, h, hd]

theorem Access.decode_of_width {a : Access} (h : a.width = 4) :
    a.decode = Sys2Proof.decode (mkTxn a.write a.offset a.data) := by
  simp [Access.decode, Access.transcribe, h]

/-- Settles O8, turn by turn: a turn the script gives is `turnStep` at the state with that turn taken. -/
theorem stepPerformsTheTurn : Obligations.StepPerformsTheTurn := by
  intro s rest hl
  refine ⟨fun bf hs => ?tick, fun hs => ?reset, fun hs hh => ?host⟩
  case tick => exact step_of_script hl hs
  case reset => exact step_of_script hl hs
  case host => exact (step_of_script hl hs).trans (hostTurn_nil hh)

/-! ## Fields of an offset as ranges of the address map (R46 to R48, R52) -/

theorem alignedOffset_iff (a : Offset) : alignedOffset a = true ↔ a.toNat % 4 = 0 := by
  simp [alignedOffset, ← BitVec.toNat_inj, BitVec.extractLsb'_toNat]

/-- `A[17:12] = 1` is the PIX window (R47). -/
theorem pixWindow_iff (a : Offset) : a.extractLsb' 12 6 = 1#6 ↔ 0x01000 ≤ a.toNat ∧ a.toNat < 0x02000 := by
  have ha := a.isLt
  simp only [← BitVec.toNat_inj, BitVec.extractLsb'_toNat, Nat.shiftRight_eq_div_pow, BitVec.toNat_ofNat]
  omega

/-- `A[17] = 1` is the ENC window (R48). -/
theorem encWindow_iff (a : Offset) : a.extractLsb' 17 1 = 1#1 ↔ 0x20000 ≤ a.toNat := by
  have ha := a.isLt
  simp only [← BitVec.toNat_inj, BitVec.extractLsb'_toNat, Nat.shiftRight_eq_div_pow, BitVec.toNat_ofNat]
  omega

theorem readsZero_iff (a : Offset) :
    readsZero a = true ↔ a.toNat = 0 ∨ (0x00020 ≤ a.toNat ∧ a.toNat < 0x01000) ∨ (0x02000 ≤ a.toNat ∧ a.toNat < 0x20000) := by
  simp only [readsZero, reservedOffset, Bool.or_eq_true, beq_iff_eq, Bool.and_eq_true, decide_eq_true_eq,
    ← BitVec.toNat_inj, BitVec.toNat_ofNat]
  omega

theorem writeIgnored_iff (a : Offset) :
    writeIgnored a = true ↔ a.toNat = 4 ∨ (0x0000C ≤ a.toNat ∧ a.toNat < 0x01000) ∨
      (0x02000 ≤ a.toNat ∧ a.toNat < 0x20000) := by
  simp only [writeIgnored, reservedOffset, Bool.or_eq_true, beq_iff_eq, Bool.and_eq_true, decide_eq_true_eq,
    ← BitVec.toNat_inj, BitVec.toNat_ofNat]
  omega

/-! ## What a word that decodes is (R67) -/

/-- A CTRL write that passes checks 3 and 4 of R67 carries one of the five command codes. -/
theorem command_lt_five {d : Word} (hr : d.extractLsb' 4 28 = 0#28) (hc : (d.extractLsb' 0 4).toNat < 5) :
    d.toNat < 5 := by
  have hd := d.isLt
  simp only [← BitVec.toNat_inj, BitVec.extractLsb'_toNat, Nat.shiftRight_eq_div_pow, BitVec.toNat_ofNat] at hr hc
  omega

/-- A word that decodes passed the four checks of R67, and a row gave the instruction. -/
theorem decode_mkTxn_ok {w : Bool} {a : Offset} {d : Word} {i : Instr} (h : decode (mkTxn w a d) = .ok i) :
    alignedOffset a = true ∧ (w = false → d = 0#32) ∧ (w = true → a = 0#18 → d.toNat < 5) ∧
      (opcodeTable.find? (fun r => r.admits (mkTxn w a d))).map (fun r => r.build (mkTxn w a d)) = some i := by
  rw [decode_mkTxn] at h
  split_ifs at h with hal hread hres hcmd
  refine ⟨by simpa using hal, by simpa using hread, fun hw ha => command_lt_five ?_ ?_, ?_⟩
  · simpa [hw, ha] using hres
  · simpa [hw, ha] using hcmd
  · split at h
    next hrow => cases h; exact hrow
    next => cases h

/-- Row 18 is reached only from the offsets of R93: every other aligned read has a row before it. -/
theorem decode_rdZero {w : Bool} {a b : Offset} {d : Word} (h : decode (mkTxn w a d) = .ok (.rdZero b)) :
    a = b ∧ alignedOffset a = true ∧ readsZero a = true := by
  obtain ⟨hal, hread, -, hrow⟩ := decode_mkTxn_ok h
  rw [find_row] at hrow
  cases w with
  | true => simp [ite_eq_iff, hal] at hrow
  | false =>
    obtain ⟨h4, h8, hC, h10, h14, h18, h1C, hpix, henc, hab⟩ :
        a ≠ 0x00004#18 ∧ a ≠ 0x00008#18 ∧ a ≠ 0x0000C#18 ∧ a ≠ 0x00010#18 ∧ a ≠ 0x00014#18 ∧ a ≠ 0x00018#18 ∧
          a ≠ 0x0001C#18 ∧ ¬ a.extractLsb' 12 6 = 1#6 ∧ ¬ a.extractLsb' 17 1 = 1#1 ∧ a = b := by
      simpa [ite_eq_iff, hal, hread] using hrow
    refine ⟨hab, hal, (readsZero_iff a).mpr ?_⟩
    rw [pixWindow_iff] at hpix
    rw [encWindow_iff] at henc
    rw [alignedOffset_iff] at hal
    bv_omega

/-- Row 19 is reached only from the offsets of R94: every other aligned write has a row before it, and so has every CTRL
write that is not refused. -/
theorem decode_wrIgnored {w : Bool} {a b : Offset} {d e : Word} (h : decode (mkTxn w a d) = .ok (.wrIgnored b e)) :
    a = b ∧ alignedOffset a = true ∧ writeIgnored a = true := by
  obtain ⟨hal, -, hcmd, hrow⟩ := decode_mkTxn_ok h
  rw [find_row] at hrow
  cases w with
  | false => simp [ite_eq_iff, hal] at hrow
  | true =>
    obtain ⟨hnop, hsend, hencode, hstream, hgap, h8, hpix, henc, hab, -⟩ :
        (a = 0#18 → d ≠ 0#32) ∧ (a = 0#18 → d ≠ 1#32) ∧ (a = 0#18 → d ≠ 2#32) ∧ (a = 0#18 → d ≠ 3#32) ∧
          (a = 0#18 → d ≠ 4#32) ∧ a ≠ 0x00008#18 ∧ ¬ a.extractLsb' 12 6 = 1#6 ∧ ¬ a.extractLsb' 17 1 = 1#1 ∧ a = b ∧
          d = e := by
      simpa [ite_eq_iff, hal] using hrow
    have hctrl : a ≠ 0#18 := by
      intro ha
      have hlt := hcmd rfl ha
      bv_omega
    refine ⟨hab, hal, (writeIgnored_iff a).mpr ?_⟩
    rw [pixWindow_iff] at hpix
    rw [encWindow_iff] at henc
    rw [alignedOffset_iff] at hal
    bv_omega

/-- What decodes is well-formed: only the catch-all rows carry an offset, and it is one of theirs. -/
theorem decode_wf {t : Txn} {i : Instr} (h : decode t = .ok i) : i.wf = true := by
  rw [← mkTxn_fields t] at h
  cases i
  case rdZero b =>
    obtain ⟨rfl, hal, hzero⟩ := decode_rdZero h
    simp [Instr.wf, hal, hzero]
  case wrIgnored b e =>
    obtain ⟨rfl, hal, hignored⟩ := decode_wrIgnored h
    simp [Instr.wf, hal, hignored]
  all_goals rfl

/-- Settles O7: the host's turn decodes the pending access and runs what it decodes to. -/
theorem stepRunsDecodedInstruction : Obligations.StepRunsDecodedInstruction := by
  intro s a q rest i hl hs hh hw hd
  have hrun : hostTurn { s with script := rest } = exec i { s with script := rest } :=
    hostTurn_cons hh ((Access.decode_of_width hw).trans hd)
  exact ⟨decode_wf hd, (step_of_script hl hs).trans hrun⟩

end Sys2Proof
end

section
/-!
SUPPORT. The proofs of family 10_state.md: the invariants of R34 operation by operation, at power-on and over a step; that
they exclude the model's two stops; STATUS (R28), the sticky FAULT (R27, R145 to R150), PARAM_GAP (R88) and RESET (R35, R165).
-/

namespace Sys2Proof

open Sys2Proof.Machine

/-! ## STATUS (R28) -/

/-- The STATUS word of a phase where R34 (e) holds. -/
def phaseStatus : Phase → Word
  | .idle => 0#32
  | .busy => 1#32
  | .gap => 2#32
  | .halted => 4#32

theorem phaseStatus_injective : Function.Injective phaseStatus := by
  intro p q
  cases p <;> cases q <;> decide

theorem Inv.fault_eq {s : State} (h : Inv s) : s.fault = (s.phase == .halted) :=
  Bool.eq_iff_iff.mpr (h.faultHalted.trans beq_iff_eq.symm)

/-- R34 (e) makes STATUS a function of PHASE. -/
theorem statusWord_eq_phaseStatus {s : State} (h : s.fault = (s.phase == .halted)) :
    statusWord s = phaseStatus s.phase := by
  simp only [statusWord, faultFlag, gapFlag, busyFlag, h]
  cases s.phase <;> rfl

/-- Settles O13: STATUS is `phaseStatus` of PHASE, and that tells the phases apart. -/
theorem statusValues : Obligations.StatusValues := by
  intro s h
  have key (p : Phase) : s.phase = p ↔ statusWord s = phaseStatus p := by
    rw [statusWord_eq_phaseStatus h.fault_eq, phaseStatus_injective.eq_iff]
  exact ⟨key .idle, key .busy, key .gap, key .halted⟩

/-! ## Power-on and RESET (R35, R165) -/

theorem inv_resetOf {c : Config} (h : c.legal = true) : Inv (State.resetOf c) where
  legal := h
  posRange := Nat.lt_of_lt_of_le (Nat.succ_pos 11) (legal_len h).1
  gapRange := le_refl c.resetTicks
  gapRuns _ := legal_resetTicks h
  idleClean := by simp
  gapClean _ := ⟨rfl, rfl⟩
  faultHalted := by simp
  pixCanonical := rfl
  pixBounded := rfl
  encCanonical := rfl
  encBounded := rfl

/-- Settles O48: the reset values meet each invariant, by the bounds a legal configuration puts on LEN and RESET_TICKS. -/
theorem powerOnSatisfiesInvariants : Obligations.PowerOnSatisfiesInvariants :=
  ⟨fun _ h => inv_resetOf h, inv_resetOf (by decide)⟩

/-- Settles O40: the elements of the power-on state are literals, and an unlisted index of PIX or ENC reads as 0. -/
theorem powerOnValues : Obligations.PowerOnValues :=
  ⟨fun _ => ⟨fun _ => rfl, fun _ => rfl, rfl, rfl, rfl, rfl, rfl, rfl, rfl,
    statusWord_eq_phaseStatus rfl, rfl⟩, rfl⟩

/-- Settles O41: the turn taken is RESET, so the step is `State.applyReset`, which asks nothing about the phase. -/
theorem resetFromEveryPhase : Obligations.ResetFromEveryPhase := by
  intro s rest hl hs
  have hstep : step s = .next ({ s with script := rest } : State).applyReset := step_of_script hl hs
  exact ⟨_, hstep, fun _ => rfl, fun _ => rfl, rfl, rfl⟩

/-! ## The invariants, operation by operation (R34) -/

theorem Inv.len_pos {s : State} (h : Inv s) : 0 < s.cfg.len := Nat.zero_lt_of_lt h.posRange

/-- R34 (e), read outside HALTED. -/
theorem Inv.not_fault {s : State} (h : Inv s) (hp : s.phase ≠ .halted) : ¬ s.fault = true := mt h.faultHalted.mp hp

theorem Inv.applyReset {s : State} (h : Inv s) : Inv s.applyReset := { inv_resetOf h.legal with }

theorem Inv.complete {s : State} (h : Inv s) : Inv s.complete := { h with }

theorem Inv.reply {s : State} (h : Inv s) (v : Word) : Inv (s.reply v) := { h with }

theorem Inv.writeBright {s : State} (h : Inv s) (v : Byte) : Inv (s.writeBright v) := { h with }

theorem Inv.drawLine {s : State} (h : Inv s) : Inv s.drawLine := { h with }

/-- A PIX write below N keeps PIX canonical and within N; beyond N it does nothing (R90). -/
theorem Inv.writePix {s : State} (h : Inv s) (i : Nat) (p : Color) : Inv (s.writePix i p) := by
  unfold State.writePix
  split
  next hi =>
    exact { h with
      pixCanonical := Store.wfFrom_write h.pixCanonical p (Nat.zero_le i)
      pixBounded := Store.below_write pixUnlisted h.pixBounded p hi }
  next => exact h

/-- An ENC write below LEN keeps ENC canonical and within LEN; beyond LEN it does nothing (R92). -/
theorem Inv.writeEnc {s : State} (h : Inv s) (k : Nat) (v : Byte) : Inv (s.writeEnc k v) := by
  unfold State.writeEnc
  split
  next hk =>
    exact { h with
      encCanonical := Store.wfFrom_write h.encCanonical v (Nat.zero_le k)
      encBounded := Store.below_write encUnlisted h.encBounded v hk }
  next => exact h

/-- The stream the encoder writes has exactly LEN bytes (R99), so ENC keeps within LEN. -/
theorem Inv.loadStream {s : State} (h : Inv s) : Inv s.loadStream :=
  have hlen := encodeStream_length h.legal s.pixAt s.bright
  { h with
    encCanonical := memory_wf_loadStream s
    encBounded := Store.below_ofList encUnlisted 0 _ (by simp [hlen]) }

theorem Inv.startFrame {s : State} (h : Inv s) (hp : s.phase ≠ .halted) : Inv s.startFrame :=
  { h with
    posRange := h.len_pos
    gapRuns := by simp
    idleClean := by simp
    gapClean := by simp
    faultHalted := by simp [h.not_fault hp] }

/-- The gap starts at the first position, as R34 (d) asks, and outside HALTED (R122, R130). -/
theorem Inv.startGap {s : State} (h : Inv s) (hp : s.phase ≠ .halted) (hclean : s.pos = 0 ∧ s.slot = 0) :
    Inv s.startGap :=
  { h with
    gapRange := le_refl s.cfg.resetTicks
    gapRuns := fun _ => legal_resetTicks h.legal
    idleClean := by simp
    gapClean := fun _ => hclean
    faultHalted := by simp [h.not_fault hp] }

theorem Inv.takeBusFault {s : State} (h : Inv s) : Inv s.takeBusFault :=
  { h with
    gapRuns := by simp
    idleClean := by simp
    gapClean := by simp
    faultHalted := by simp }

/-- BUSY asks nothing of the position but that it is an index of ENC. -/
theorem Inv.moveBusy {s : State} (h : Inv s) (hp : s.phase = .busy) {pos : Nat} (hpos : pos < s.cfg.len) (slot : Fin 8) :
    Inv { s with pos := pos, slot := slot } :=
  { h with
    posRange := hpos
    idleClean := by simp [hp]
    gapClean := by simp [hp] }

/-- The three ways a position moves: within its byte, to the next byte, and back to the first one as the gap starts. -/
theorem Inv.advance {s : State} (h : Inv s) (hp : s.phase = .busy) : Inv s.advance := by
  rcases advance_cases s with ⟨_, e⟩ | ⟨_, hnext, e⟩ | ⟨_, _, e⟩ <;> rw [e]
  · exact h.moveBusy hp h.posRange _
  · exact h.moveBusy hp hnext 0
  · exact (h.moveBusy hp h.len_pos 0).startGap (by simp [hp]) ⟨rfl, rfl⟩

theorem Inv.setDout {s : State} (h : Inv s) (x : Bool) : Inv { s with dout := x } := { h with }

theorem Inv.shiftOut {s : State} (h : Inv s) (hp : s.phase = .busy) : Inv s.shiftOut := (h.setDout _).advance hp

/-- The gap goes on: GAPCNT stays at least 1 (R34 (b), R123). -/
theorem Inv.gapRun {s : State} (h : Inv s) {g : Nat} (hg : s.gapcnt = g + 2) :
    Inv { s with dout := false, gapcnt := g + 1 } :=
  { h with
    gapRange := (Nat.le_succ (g + 1)).trans (hg.symm.trans_le h.gapRange)
    gapRuns := fun _ => Nat.le_add_left 1 g
    idleClean := fun hi => absurd (h.idleClean hi).1 (by omega) }

/-- The gap ends: POS and SLOT are 0 already (R34 (d)), so IDLE is clean (R34 (c), R123). -/
theorem Inv.gapEnd {s : State} (h : Inv s) (hp : s.phase = .gap) :
    Inv { s with dout := false, gapcnt := 0, phase := .idle } :=
  { h with
    gapRange := Nat.zero_le _
    gapRuns := by simp
    idleClean := fun _ => ⟨rfl, h.gapClean hp⟩
    gapClean := by simp
    faultHalted := by simp [h.not_fault, hp] }

/-! ## The invariants over a step (R34) -/

theorem Inv.takeTurn {s : State} (h : Inv s) : Inv s.takeTurn.2 := by
  rcases takeTurn_cases s with ⟨u, rest, _, e⟩ | ⟨_, u, rest, e⟩ <;> rw [e]
  · exact { h with }
  · exact { h with }

theorem Inv.hostEffect {s t : State} (h : Inv s) (he : HostEffect s t) : Inv t := by
  cases he with
  | held => exact h
  | none => exact h.complete
  | reply v => exact h.reply v
  | bright v => exact (h.writeBright v).complete
  | pix i p => exact (h.writePix i p).complete
  | enc _ k v => exact (h.writeEnc k v).complete
  | encode _ => exact h.loadStream.complete
  | send hi => exact (h.loadStream.startFrame (by simp [hi])).complete
  | sendStream hi => exact (h.startFrame (by simp [hi])).complete
  | idleGap hi => exact (h.startGap (by simp [hi]) (h.idleClean hi).2).complete

theorem Inv.tickEffect {s t : State} {bf : Bool} (h : Inv s) (he : TickEffect s bf t) : Inv t := by
  cases he with
  | idle _ _ => exact h.setDout false
  | busFault _ => exact h.takeBusFault
  | shift hp _ => exact h.shiftOut hp
  | gapEnd _ hp _ => exact h.gapEnd hp
  | gapRun _ _ _ hg => exact h.gapRun hg
  | halted _ _ => exact h.drawLine

theorem Inv.turnEffect {s t : State} {u : Turn} (h : Inv s) (he : TurnEffect s u t) : Inv t := by
  cases he with
  | noTransaction _ => exact h
  | host _ he => exact h.hostEffect he
  | tick _ _ he => exact h.tickEffect he
  | reset => exact h.applyReset

/-- Settles O49: taking a turn keeps the invariants, and so does everything a turn can do. -/
theorem stepKeepsInvariants : Obligations.StepKeepsInvariants := by
  intro s t h hstep
  obtain ⟨_, he⟩ := step_next hstep
  exact h.takeTurn.turnEffect he

/-! ## No stop where the invariants hold (log entry 8) -/

/-- No host transaction stops with a fault (R151). -/
theorem hostTurn_ne_fault (s : State) (f : Fault) : hostTurn s ≠ .fault f := by
  unfold hostTurn
  split
  next => simp
  next i _ =>
    obtain ⟨t, ht, _⟩ := exec_effect i s
    simp [ht]
  next => simp

theorem Inv.tick_ne_fault {s : State} (h : Inv s) (bf : Bool) (f : Fault) : tick bf s ≠ .fault f := by
  obtain ⟨t, ht⟩ := tick_some bf (fun _ => h.posRange) h.gapRuns
  simp [ht]

/-- Settles O50: only a tick could stop, and R34 (a) and (b) are what keeps it from doing so. -/
theorem invariantsExcludeStops : Obligations.InvariantsExcludeStops := by
  intro s f h
  rw [step_legal h.legal]
  cases s.takeTurn.1 with
  | host => exact hostTurn_ne_fault _ f
  | tick bf => exact h.takeTurn.tick_ne_fault bf f
  | reset => simp [turnStep]

/-! ## BusFault and the sticky FAULT (R27, R145 to R150) -/

/-- Fault entry records the cause and keeps the position, the arrays and BRIGHT (R147). -/
theorem takeFault_records (c : Cause) (s : State) :
    (s.takeFault c).fault = true ∧ (s.takeFault c).phase = .halted ∧ (s.takeFault c).recordedCause = some c ∧
      s.takeFault c = { s with
        fault := (s.takeFault c).fault, phase := (s.takeFault c).phase, dout := (s.takeFault c).dout
        draws := (s.takeFault c).draws } := by
  cases c
  exact ⟨rfl, rfl, rfl, rfl⟩

theorem hostEffect_fault {s t : State} (h : HostEffect s t) : t.fault = s.fault := by
  cases h <;> simp

/-- A tick leaves FAULT set, and sets it exactly where it raises a cause. -/
theorem tickEffect_fault {s t : State} {bf : Bool} (h : TickEffect s bf t) :
    t.fault = (s.fault || (tickRaises bf s).isSome) := by
  cases h with
  | busFault hp => simp [tickRaises, busyRaises, hp]
  | shift hp _ => simp [tickRaises, busyRaises, hp]
  | idle _ hp | gapEnd _ hp _ | gapRun _ hp _ _ | halted _ hp => simp [tickRaises, hp]

theorem tickRaises_takeTurn (bf : Bool) (s : State) : tickRaises bf s.takeTurn.2 = tickRaises bf s := by
  simp [tickRaises]

theorem tickRaises_eq (bf : Bool) (s : State) :
    tickRaises bf s = if s.phase = .busy ∧ bf = true then some .busFault else none := by
  split
  next h => exact tickRaises_iff.mpr h
  next h => exact Option.eq_none_iff_forall_ne_some.mpr fun _ hc => h (tickRaises_iff.mp hc)

/-- FAULT after a turn: a host transaction keeps it, a tick may set it, RESET clears it. -/
def faultAfter (s : State) : Turn → Bool
  | .host => s.fault
  | .tick bf => s.fault || (tickRaises bf s).isSome
  | .reset => false

theorem turnEffect_fault {s t : State} {u : Turn} (h : TurnEffect s u t) : t.fault = faultAfter s u := by
  cases h with
  | noTransaction _ => rfl
  | host _ h => exact hostEffect_fault h
  | tick _ _ h => exact tickEffect_fault h
  | reset => rfl

theorem step_fault {s t : State} (h : step s = .next t) : t.fault = faultAfter s s.takeTurn.1 := by
  rw [turnEffect_fault (step_next h).2]
  cases s.takeTurn.1 <;> simp [faultAfter, tickRaises_takeTurn]

/-- Only a tick that raises BusFault sets FAULT. -/
theorem turn_of_fault_set {s : State} {u : Turn} (hs : s.fault = false) (h : faultAfter s u = true) :
    ∃ bf, u = .tick bf ∧ tickRaises bf s = some .busFault := by
  cases u with
  | host => simp [faultAfter, hs] at h
  | tick bf =>
    simp only [faultAfter, hs, Bool.false_or, Option.isSome_iff_exists] at h
    obtain ⟨⟨⟩, hc⟩ := h
    exact ⟨bf, rfl, hc⟩
  | reset => simp [faultAfter] at h

/-- Only RESET clears FAULT. -/
theorem turn_of_fault_cleared {s : State} {u : Turn} (hs : s.fault = true) (h : faultAfter s u = false) :
    u = .reset := by
  cases u with
  | host => simp [faultAfter, hs] at h
  | tick bf => simp [faultAfter, hs] at h
  | reset => rfl

/-- Settles O52: the cause table, what the raising tick records, and FAULT followed through a turn. -/
theorem faultIsSticky : Obligations.FaultIsSticky := by
  refine ⟨fun c => ?cause, tickRaises_eq, fun bf s c hc => ?entry, fun s t h => ?sticky⟩
  case cause => cases c; exact ⟨rfl, rfl⟩
  case entry =>
    obtain ⟨hfault, hphase, hcause, hframe⟩ := takeFault_records c s
    exact ⟨_, tick_of_raises hc, hfault, hphase, by rw [hcause]; rfl, hframe⟩
  case sticky =>
    rw [step_fault h]
    exact ⟨turn_of_fault_set, turn_of_fault_cleared⟩

/-! ## PARAM_GAP (R88) and the line outside a frame (R34 (f)) -/

theorem paramGap_of_lt {c : Config} (h : c.resetTicks < 2 ^ 32) : c.paramGap.toNat = c.resetTicks := by
  rw [paramGap_toNat, if_pos h]

/-- "The value is at least 1": RESET_TICKS by R6, and the free value by its bound (log entry 6). -/
theorem one_le_paramGap {c : Config} (h : c.legal = true) : 1 ≤ c.paramGap.toNat := by
  rw [paramGap_toNat]
  split
  · exact legal_resetTicks h
  · exact Nat.le_add_left 1 _

/-- Settles O17: RD_PARAM_GAP replies PARAM_GAP. -/
theorem readParamGapReturnsResetTicks : Obligations.ReadParamGapReturnsResetTicks :=
  ⟨by rfl, fun _ => ⟨_, rfl, paramGap_of_lt, one_le_paramGap⟩⟩

/-- Settles O39: in IDLE and GAP a tick that completes drives the line low; the other effects need BUSY or HALTED. -/
theorem lineLowOutsideFrame : Obligations.LineLowOutsideFrame := by
  intro bf s t h hp
  cases tick_next h with
  | idle _ _ | gapEnd _ _ _ | gapRun _ _ _ _ => rfl
  | busFault hb | shift hb _ | halted _ hb => simp [hb] at hp

end Sys2Proof
end

section
/-!
SUPPORT. The proofs of family 20_memory.md: the address map (R46) agrees with the opcode map and orders the refusals (R67);
what a write of the PIX and ENC windows stores and what a read of it returns (R47, R48); that a tick and the host keep to
their own side of the state (R58, R63).
-/

namespace Sys2Proof

open Sys2Proof.Machine

/-! ## The address map (R46 to R48) -/

/-- The aligned offsets of a row of the map, in the terms by which the opcode map tells them apart (R46, R72). -/
def Machine.Region.Covers (a : Offset) : Region → Prop
  | .ctrl => a = 0x00000#18
  | .status => a = 0x00004#18
  | .bright => a = 0x00008#18
  | .paramN => a = 0x0000C#18
  | .paramHdr => a = 0x00010#18
  | .paramLen => a = 0x00014#18
  | .paramCfg => a = 0x00018#18
  | .paramGap => a = 0x0001C#18
  | .reserved => 0x00020 ≤ a.toNat ∧ a.extractLsb' 12 6 ≠ 1#6 ∧ a.extractLsb' 17 1 ≠ 1#1
  | .pix i => 0x00020 ≤ a.toNat ∧ a.extractLsb' 12 6 = 1#6 ∧ a.extractLsb' 2 10 = BitVec.ofNat 10 i ∧ i < 1024
  | .enc k => 0x00020 ≤ a.toNat ∧ a.extractLsb' 12 6 ≠ 1#6 ∧ a.extractLsb' 17 1 = 1#1 ∧
      a.extractLsb' 2 15 = BitVec.ofNat 15 k ∧ k < 32768

/-- `A[11:2]` in the PIX window is the index counted from its first offset (R47). -/
theorem pixField_eq {a : Offset} (h : 0x01000 ≤ a.toNat ∧ a.toNat < 0x02000) :
    a.extractLsb' 2 10 = BitVec.ofNat 10 ((a.toNat - 0x01000) / 4) := by
  simp only [← BitVec.toNat_inj, BitVec.extractLsb'_toNat, Nat.shiftRight_eq_div_pow, BitVec.toNat_ofNat]
  omega

/-- `A[16:2]` in the ENC window is the index counted from its first offset (R48). -/
theorem encField_eq {a : Offset} (h : 0x20000 ≤ a.toNat) :
    a.extractLsb' 2 15 = BitVec.ofNat 15 ((a.toNat - 0x20000) / 4) := by
  simp only [← BitVec.toNat_inj, BitVec.extractLsb'_toNat, Nat.shiftRight_eq_div_pow, BitVec.toNat_ofNat]
  omega

/-- An aligned offset below the next register is the register's own. -/
theorem offset_eq_of_lt {a : Offset} {r : Nat} (hal : a.toNat % 4 = 0) (hr : r % 4 = 0) (hlo : r ≤ a.toNat)
    (hhi : a.toNat < r + 4) : a = BitVec.ofNat 18 r := by
  have ha := a.isLt
  rw [← BitVec.toNat_inj, BitVec.toNat_ofNat]
  omega

theorem regionOf_covers {a : Offset} (hal : a.toNat % 4 = 0) : Region.Covers a (regionOf a) := by
  unfold regionOf
  iterate 8
    refine iteInduction (fun _ => offset_eq_of_lt hal rfl (by omega) (by omega)) (fun _ => ?_)
  have hreserved (h : 0x00020 ≤ a.toNat) (hp : ¬ (0x01000 ≤ a.toNat ∧ a.toNat < 0x02000)) (he : a.toNat < 0x20000) :
      Region.Covers a .reserved :=
    ⟨h, mt (pixWindow_iff a).mp hp, mt (encWindow_iff a).mp (by omega)⟩
  refine iteInduction (fun _ => hreserved (by omega) (by omega) (by omega)) (fun _ => ?_)
  refine iteInduction (fun _ => ?pix) (fun _ => ?_)
  case pix =>
    have hpix : 0x01000 ≤ a.toNat ∧ a.toNat < 0x02000 := by omega
    exact ⟨by omega, (pixWindow_iff a).mpr hpix, pixField_eq hpix, by omega⟩
  refine iteInduction (fun _ => hreserved (by omega) (by omega) (by omega)) (fun _ => ?enc)
  have henc : 0x20000 ≤ a.toNat := by omega
  exact ⟨by omega, mt (pixWindow_iff a).mp (by omega), (encWindow_iff a).mpr henc, encField_eq henc, by omega⟩

/-! ## The two decoders (R46, R67) -/

theorem ctrlReserved_eq_zero_iff (d : Word) : d.extractLsb' 4 28 = 0#28 ↔ d.toNat < 16 := by
  have hd := d.isLt
  simp only [← BitVec.toNat_inj, BitVec.extractLsb'_toNat, Nat.shiftRight_eq_div_pow, BitVec.toNat_ofNat]
  omega

theorem commandInstr_reservedBits {d : Word} (h : 16 ≤ d.toNat) : commandInstr d = .error .ctrlReservedBits := by
  have hne (n : Nat) (hn : n < 16) : d ≠ BitVec.ofNat 32 n := by bv_omega
  simp [commandInstr, hne, h]

theorem commandInstr_reservedCommand {d : Word} (h : 5 ≤ d.toNat) (h16 : d.toNat < 16) :
    commandInstr d = .error .reservedCommand := by
  have hne (n : Nat) (hn : n < 5) : d ≠ BitVec.ofNat 32 n := by bv_omega
  simp [commandInstr, hne, h16]

/-- The five command codes (R70). -/
theorem command_cases {d : Word} (h : d.toNat < 5) : d = 0#32 ∨ d = 1#32 ∨ d = 2#32 ∨ d = 3#32 ∨ d = 4#32 := by
  bv_omega

theorem commandInstr_ok {d : Word} (h : d.toNat < 5) : ∃ i, commandInstr d = .ok i := by
  rcases command_cases h with rfl | rfl | rfl | rfl | rfl <;> exact ⟨_, rfl⟩

/-- Checks 3 and 4 of R67 and rows 1 to 5 are the command table (R70, R71). -/
theorem decode_ctrlWrite (d : Word) : decode (mkTxn true 0x00000#18 d) = commandInstr d := by
  rcases Nat.lt_or_ge d.toNat 16 with h16 | h16
  · rcases Nat.lt_or_ge d.toNat 5 with h5 | h5
    · rcases command_cases h5 with rfl | rfl | rfl | rfl | rfl <;> rfl
    · have hres := (ctrlReserved_eq_zero_iff d).mpr h16
      simp [decode_mkTxn, alignedOffset, hres, Nat.mod_eq_of_lt h16, h5, commandInstr_reservedCommand h5 h16]
  · have hres := mt (ctrlReserved_eq_zero_iff d).mp (Nat.not_lt.mpr h16)
    simp [decode_mkTxn, alignedOffset, hres, commandInstr_reservedBits h16]

/-- From 0x00020 on the windows and the catch-alls decide, on fields of the offset alone (R46 to R49, R72). -/
theorem decode_beyond_registers {w : Bool} {a : Offset} {d : Word} (hal : a.toNat % 4 = 0) (hd : w = true ∨ d = 0#32)
    (hlo : 0x00020 ≤ a.toNat) :
    decode (mkTxn w a d) = .ok (
      if a.extractLsb' 12 6 = 1#6 then if w then .wrPix (a.extractLsb' 2 10) d else .rdPix (a.extractLsb' 2 10)
      else if a.extractLsb' 17 1 = 1#1 then if w then .wrEnc (a.extractLsb' 2 15) d else .rdEnc (a.extractLsb' 2 15)
      else if w then .wrIgnored a d else .rdZero a) := by
  have hne (n : Nat) (hn : n < 0x00020) : a ≠ BitVec.ofNat 18 n := by bv_omega
  rw [← alignedOffset_iff] at hal
  cases w with
  | true =>
    simp only [if_true]
    split_ifs <;> simp [decode_mkTxn, find_row, *]
  | false =>
    obtain rfl : d = 0#32 := hd.resolve_left Bool.false_ne_true
    simp only [Bool.false_eq_true, if_false]
    split_ifs <;> simp [decode_mkTxn, find_row, *]

/-- An aligned read decodes to the row of its offset. -/
theorem decode_read {a : Offset} (hal : a.toNat % 4 = 0) : decode (mkTxn false a 0#32) = .ok (readInstr a) := by
  have hc := regionOf_covers hal
  unfold readInstr
  cases hr : regionOf a <;> rw [hr] at hc
  case reserved | pix | enc =>
    obtain ⟨hlo, hfields⟩ := hc
    simp [decode_beyond_registers hal (.inr rfl) hlo, hfields]
  all_goals
    obtain rfl : a = _ := hc
    rfl

/-- An aligned write decodes to the row of its offset, and is refused as the command table says. -/
theorem decode_write {a : Offset} (hal : a.toNat % 4 = 0) (d : Word) : decode (mkTxn true a d) = writeInstr a d := by
  have hc := regionOf_covers hal
  unfold writeInstr
  cases hr : regionOf a <;> rw [hr] at hc
  case ctrl =>
    obtain rfl : a = _ := hc
    exact decode_ctrlWrite d
  case reserved | pix | enc =>
    obtain ⟨hlo, hfields⟩ := hc
    simp [decode_beyond_registers hal (.inl rfl) hlo, hfields]
  all_goals
    obtain rfl : a = _ := hc
    simp [decode_mkTxn, find_row, alignedOffset]

/-- Settles O6: both decoders refuse a misaligned word first; an aligned one falls into one region of the map. -/
theorem decodeAgreesWithAddressMap : Obligations.DecodeAgreesWithAddressMap := by
  intro w a d
  unfold decodeByRange
  split
  next hal => simp [decode_mkTxn, Bool.eq_false_iff.mpr (mt (alignedOffset_iff a).mp hal)]
  next hal =>
    rw [not_not] at hal
    cases w with
    | true => exact decode_write hal d
    | false =>
      by_cases hd : d = 0#32
      · subst hd
        exact decode_read hal
      · simp [decode_mkTxn, (alignedOffset_iff a).mpr hal, hd]

/-! ## The host's reads (R46 to R49, R54) -/

/-- The row of an aligned offset returns the word of that offset, and its reply is all it does (R80). -/
theorem exec_readInstr (s : State) {a : Offset} (hal : a.toNat % 4 = 0) :
    exec (readInstr a) s = .next (s.reply (s.windowRead a)) := by
  have hc := regionOf_covers hal
  unfold readInstr State.windowRead
  cases hr : regionOf a <;> rw [hr] at hc
  case pix i =>
    obtain ⟨-, -, -, hi⟩ := hc
    simp [exec, execRdPix, Nat.mod_eq_of_lt hi]
  case enc k =>
    obtain ⟨-, -, -, -, hk⟩ := hc
    simp [exec, execRdEnc, Nat.mod_eq_of_lt hk]
  all_goals rfl

/-- Settles O25: the row an aligned read decodes to replies the word of the map. -/
theorem readsFollowAddressMap : Obligations.ReadsFollowAddressMap := by
  intro s a hal
  exact ⟨readInstr a, decode_read hal, exec_readInstr s hal⟩

/-! ## Refusals (R67, R71, R152) -/

theorem hostTurn_refused {s : State} {a : Access} {q : List Access} {e : DecodeError} (h : s.host = a :: q)
    (hd : a.decode = .error e) : hostTurn s = .refused (refusalOf e) := by
  simp [hostTurn, State.pending, h, hd]

theorem Access.decode_of_width_ne {a : Access} (h : a.width ≠ 4) : a.decode = .error .badWidth := by
  simp [Access.decode, Access.transcribe, h]

/-- A host step refuses the pending access for the decoder's reason. -/
theorem step_refused {s : State} {a : Access} {q : List Access} {rest : List Turn} {e : DecodeError}
    (hl : s.cfg.legal = true) (hs : s.script = .host :: rest) (hh : s.host = a :: q) (hd : a.decode = .error e) :
    step s = .refused (refusalOf e) :=
  (step_of_script hl hs).trans (hostTurn_refused hh hd)

/-- A host step answers a next state for every pending access that decodes (R151). -/
theorem step_answers {s : State} {a : Access} {q : List Access} {rest : List Turn} {i : Instr}
    (hl : s.cfg.legal = true) (hs : s.script = .host :: rest) (hh : s.host = a :: q) (hd : a.decode = .ok i) :
    ∃ t, step s = .next t := by
  obtain ⟨t, ht, -⟩ := exec_effect i { s with script := rest }
  exact ⟨t, (step_of_script hl hs).trans ((hostTurn_cons (s := { s with script := rest }) hh hd).trans ht)⟩

/-- Away from CTRL every aligned write has a row (R67). -/
theorem writeInstr_ok {a : Offset} (hal : a.toNat % 4 = 0) (ha : a ≠ 0x00000#18) (d : Word) :
    ∃ i, writeInstr a d = .ok i := by
  have hc := regionOf_covers hal
  unfold writeInstr
  cases hr : regionOf a <;> rw [hr] at hc
  case ctrl => exact absurd hc ha
  all_goals exact ⟨_, rfl⟩

/-- What passes the four checks of R67 decodes. -/
theorem decodeByRange_ok {w : Bool} {a : Offset} {d : Word} (hal : a.toNat % 4 = 0) (hread : w = false → d = 0#32)
    (hcmd : w = true → a = 0x00000#18 → d.toNat < 5) : ∃ i, decodeByRange w a d = .ok i := by
  cases w with
  | false => exact ⟨readInstr a, by simp [decodeByRange, hal, hread]⟩
  | true =>
    simp only [decodeByRange, hal, ne_eq, not_true_eq_false, if_false, if_true]
    by_cases ha : a = 0x00000#18
    · subst ha
      exact commandInstr_ok (hcmd rfl rfl)
    · exact writeInstr_ok hal ha d

/-- Settles O9, check by check: the width, then the decoder by address range. -/
theorem refusalsInOrder : Obligations.RefusalsInOrder := by
  intro s a q rest hl hs hh
  have hdec (hw : ¬ a.width ≠ 4) : a.decode = decodeByRange a.write a.offset a.data :=
    (Access.decode_of_width (not_not.mp hw)).trans (decodeAgreesWithAddressMap _ _ _)
  split_ifs with hw hal hread hbits hcmd
  · exact step_refused hl hs hh (Access.decode_of_width_ne hw)
  · exact step_refused (e := .misaligned) hl hs hh ((hdec hw).trans (by simp [decodeByRange, hal]))
  · exact step_refused (e := .readDataNonzero) hl hs hh ((hdec hw).trans (by simp [decodeByRange, not_not.mp hal, hread]))
  · obtain ⟨hwr, ha, hd⟩ := hbits
    rw [hwr, ha] at hdec
    exact step_refused (e := .ctrlReservedBits) hl hs hh ((hdec hw).trans (commandInstr_reservedBits hd))
  · obtain ⟨hwr, ha, hd⟩ := hcmd
    have hd16 : a.data.toNat < 16 := by_contra fun h => hbits ⟨hwr, ha, Nat.not_lt.mp h⟩
    rw [hwr, ha] at hdec
    exact step_refused (e := .reservedCommand) hl hs hh ((hdec hw).trans (commandInstr_reservedCommand hd hd16))
  · obtain ⟨i, hi⟩ := decodeByRange_ok (not_not.mp hal) (fun hr => by_contra fun hd => hread ⟨hr, hd⟩)
      (fun hwr ha => by_contra fun hd => hcmd ⟨hwr, ha, Nat.not_lt.mp hd⟩)
    exact step_answers hl hs hh ((hdec hw).trans hi)

/-! ## Writes of the PIX and ENC windows (R47, R48, R90, R92) -/

theorem regionOf_pixAddress (i : BitVec 10) : regionOf (BitVec.ofNat 18 (0x01000 + 4 * i.toNat)) = .pix i.toNat := by
  have hi := i.isLt
  have ha : (BitVec.ofNat 18 (0x01000 + 4 * i.toNat)).toNat = 0x01000 + 4 * i.toNat := by
    rw [BitVec.toNat_ofNat]
    omega
  have hlo (n : Nat) (hn : n ≤ 0x01000) : ¬ 0x01000 + 4 * i.toNat < n := by omega
  have hhi : 0x01000 + 4 * i.toNat < 0x02000 := by omega
  simp [regionOf, ha, hlo, hhi]

theorem regionOf_encAddress (k : BitVec 15) : regionOf (BitVec.ofNat 18 (0x20000 + 4 * k.toNat)) = .enc k.toNat := by
  have hk := k.isLt
  have ha : (BitVec.ofNat 18 (0x20000 + 4 * k.toNat)).toNat = 0x20000 + 4 * k.toNat := by
    rw [BitVec.toNat_ofNat]
    omega
  have hlo (n : Nat) (hn : n ≤ 0x20000) : ¬ 0x20000 + 4 * k.toNat < n := by omega
  simp [regionOf, ha, hlo]

/-- The write of `PIX[i]` at its offset (R47). -/
theorem decode_wrPix (i : BitVec 10) (d : Word) :
    decode (mkTxn true (BitVec.ofNat 18 (0x01000 + 4 * i.toNat)) d) = .ok (.wrPix i d) := by
  rw [decode_write (by simp), writeInstr, regionOf_pixAddress]
  simp

/-- The write of `ENC[k]` at its offset (R48). -/
theorem decode_wrEnc (k : BitVec 15) (d : Word) :
    decode (mkTxn true (BitVec.ofNat 18 (0x20000 + 4 * k.toNat)) d) = .ok (.wrEnc k d) := by
  rw [decode_write (by simp), writeInstr, regionOf_encAddress]
  simp

theorem colorOfWord_eq (d : Word) :
    colorOfWord d =
      { r := BitVec.ofNat 8 (d.toNat / 2 ^ 16), g := BitVec.ofNat 8 (d.toNat / 2 ^ 8), b := BitVec.ofNat 8 d.toNat } := by
  simp [colorOfWord, BitVec.extractLsb', Nat.shiftRight_eq_div_pow]

theorem lowByte_eq (d : Word) : lowByte d = BitVec.ofNat 8 d.toNat := by
  simp [lowByte, BitVec.extractLsb']

theorem writePix_complete_frame (s : State) (i : Nat) (p : Color) :
    (s.writePix i p).complete = { s with pix := (s.writePix i p).pix, host := s.host.tail } := by
  unfold State.writePix
  split <;> rfl

theorem writeEnc_complete_frame (s : State) (k : Nat) (v : Byte) :
    (s.writeEnc k v).complete = { s with enc := (s.writeEnc k v).enc, host := s.host.tail } := by
  unfold State.writeEnc
  split <;> rfl

theorem writePix_beyond {s : State} {i : Nat} (h : ¬ i < s.cfg.n) (p : Color) : s.writePix i p = s := if_neg h

theorem writeEnc_beyond {s : State} {k : Nat} (h : ¬ k < s.cfg.len) (v : Byte) : s.writeEnc k v = s := if_neg h

theorem exec_wrEnc_busy {s : State} (h : s.phase = .busy) (k : BitVec 15) (d : Word) : exec (.wrEnc k d) s = .next s := by
  simp [exec, execWrEnc, hold, h]

theorem exec_wrEnc_stores {s : State} (h : s.phase ≠ .busy) (k : BitVec 15) (d : Word) :
    exec (.wrEnc k d) s = .next (s.writeEnc k.toNat (lowByte d)).complete := by
  cases hp : s.phase
  case busy => exact absurd hp h
  all_goals simp [exec, execWrEnc, hp]

/-- Settles O19: WR_PIX is `writePix` in every phase. -/
theorem writePixStoresColor : Obligations.WritePixStoresColor := by
  refine ⟨decode_wrPix, fun i d s hinv =>
    ⟨_, rfl, writePix_complete_frame s i.toNat (colorOfWord d), fun j => ?read, ?beyond⟩⟩
  case read =>
    rw [← colorOfWord_eq]
    exact State.pixAt_writePix hinv.pixCanonical i.toNat j (colorOfWord d)
  case beyond =>
    intro hi
    rw [writePix_beyond hi, State.complete_pix]

/-- Settles O21: WR_ENC holds in BUSY and is `writeEnc` elsewhere. -/
theorem writeEncHoldsOrStores : Obligations.WriteEncHoldsOrStores := by
  refine ⟨decode_wrEnc, fun k d s hinv => ⟨fun hp => exec_wrEnc_busy hp k d, fun hp =>
    ⟨_, exec_wrEnc_stores hp k d, writeEnc_complete_frame s k.toNat (lowByte d), fun j => ?read, ?beyond⟩⟩⟩
  case read =>
    rw [← lowByte_eq]
    exact State.encAt_writeEnc hinv.encCanonical k.toNat j (lowByte d)
  case beyond =>
    intro hk
    rw [writeEnc_beyond hk, State.complete_enc]

/-! ## A word read back (R47, R48, R57) -/

/-- The three channels put back are the word without `D[31:24]` (R66). -/
theorem wordOfColor_colorOfWord (d : Word) : wordOfColor (colorOfWord d) = d &&& 0x00FFFFFF#32 := by
  apply BitVec.eq_of_getLsbD_eq
  intro i hi
  simp only [wordOfColor, colorOfWord, BitVec.getLsbD_append, BitVec.getLsbD_extractLsb', BitVec.getLsbD_and]
  interval_cases i <;> simp

theorem wordOfByte_lowByte (d : Word) : wordOfByte (lowByte d) = d &&& 0x000000FF#32 := by
  apply BitVec.eq_of_toNat_eq
  simp only [wordOfByte, lowByte, BitVec.truncate_eq_setWidth, BitVec.toNat_setWidth, BitVec.extractLsb'_toNat,
    BitVec.toNat_and, BitVec.toNat_ofNat]
  rw [show 0x000000FF % 2 ^ 32 = 2 ^ 8 - 1 by rfl, Nat.and_two_pow_sub_one_eq_mod]
  omega

theorem pixWord_writePix_self {s : State} (h : pixWf s.pix = true) (i : Nat) (p : Color) :
    (s.writePix i p).complete.pixWord i = if i < s.cfg.n then wordOfColor p else 0#32 := by
  have hread : (s.writePix i p).complete.pixAt i = if i = i ∧ i < s.cfg.n then p else s.pixAt i :=
    State.pixAt_writePix h i i p
  by_cases hi : i < s.cfg.n <;> simp [State.pixWord, hread, hi]

theorem encWord_writeEnc_self {s : State} (h : Memory.wf s.enc = true) (k : Nat) (v : Byte) :
    (s.writeEnc k v).complete.encWord k = if k < s.cfg.len then wordOfByte v else 0#32 := by
  have hread : (s.writeEnc k v).complete.encAt k = if k = k ∧ k < s.cfg.len then v else s.encAt k :=
    State.encAt_writeEnc h k k v
  by_cases hk : k < s.cfg.len <;> simp [State.encWord, hread, hk]

/-- Settles O26: the read replies the word of the index just written. -/
theorem windowReadBack : Obligations.WindowReadBack := by
  refine ⟨fun i d s hinv => ⟨_, _, rfl, rfl, ?pix⟩, fun k d s hinv hp => ⟨_, _, exec_wrEnc_stores hp k d, rfl, ?enc⟩⟩
  case pix =>
    rw [← wordOfColor_colorOfWord]
    exact pixWord_writePix_self hinv.pixCanonical i.toNat (colorOfWord d)
  case enc =>
    rw [← wordOfByte_lowByte]
    exact encWord_writeEnc_self hinv.encCanonical k.toNat (lowByte d)

/-! ## The tick keeps to its side of the state (R58, R63, R120) -/

/-- What a tick can do, it does (the converse of `tick_next`). -/
theorem tick_of_effect {s t : State} {bf : Bool} (h : TickEffect s bf t) : tick bf s = .next t := by
  cases h with
  | idle _ hp => simp [tick, tickIdle, hp]
  | busFault hp => simp [tick, tickBusy, busyRaises, hp]
  | shift hp hl => simp [tick, tickBusy, busyRaises, hp, hl]
  | gapEnd _ hp hg => simp [tick, tickGap, hp, hg]
  | gapRun _ hp g hg => simp [tick, tickGap, hp, hg]
  | halted _ hp => simp [tick, tickHalted, hp]

/-- The state with another PIX and BRIGHT and another host side (R58, R63). -/
def Machine.State.withHostSide (s : State) (p : Store Color) (b : Byte) (q : List Access) (v : Word) : State :=
  { s with pix := p, bright := b, host := q, rdata := v }

theorem advance_withHostSide (s : State) (p : Store Color) (b : Byte) (q : List Access) (v : Word) :
    (s.withHostSide p b q v).advance = s.advance.withHostSide p b q v := by
  unfold State.withHostSide State.advance
  split_ifs <;> rfl

theorem tickEffect_withHostSide {s t : State} {bf : Bool} (p : Store Color) (b : Byte) (q : List Access) (v : Word)
    (h : TickEffect s bf t) : TickEffect (s.withHostSide p b q v) bf (t.withHostSide p b q v) := by
  cases h with
  | idle _ hp => exact .idle bf hp
  | busFault hp => exact .busFault hp
  | shift hp hl =>
    rw [State.shiftOut, ← advance_withHostSide]
    exact .shift hp hl
  | gapEnd _ hp hg => exact .gapEnd bf hp hg
  | gapRun _ hp g hg => exact TickEffect.gapRun (s := s.withHostSide p b q v) bf hp g hg
  | halted _ hp => exact .halted bf hp

/-- Settles O38: each effect of a tick is the same effect beside any PIX, BRIGHT and host side. -/
theorem tickIgnoresPixAndBright : Obligations.TickIgnoresPixAndBright := by
  intro bf s t p b q v h
  exact tick_of_effect (tickEffect_withHostSide p b q v (tick_next h))

/-! ## ENC in BUSY (R58, R92) -/

theorem tickEffect_enc {s t : State} {bf : Bool} (h : TickEffect s bf t) : t.enc = s.enc := by
  cases h <;> simp

theorem hostEffect_enc_busy {s t : State} (h : HostEffect s t) (hp : s.phase = .busy) : t.enc = s.enc := by
  obtain ⟨-, -, -, -, -, -, -, -, henc, -⟩ := hostEffect_outside_idle h (by simp [hp])
  exact henc hp

theorem turnEffect_enc_busy {s t : State} {u : Turn} (h : TurnEffect s u t) (hp : s.phase = .busy) (hu : u ≠ .reset) :
    t.enc = s.enc := by
  cases h with
  | noTransaction _ => rfl
  | host _ he => exact hostEffect_enc_busy he hp
  | tick _ _ he => exact tickEffect_enc he
  | reset => exact absurd rfl hu

/-- Settles O55: neither a tick nor, in BUSY, a host transaction writes ENC. -/
theorem encFixedWhileBusy : Obligations.EncFixedWhileBusy := by
  intro s t hp h hu
  obtain ⟨-, he⟩ := step_next h
  exact (turnEffect_enc_busy he (by simp [hp]) hu).trans (takeTurn_enc s)

end Sys2Proof
end

section
/-!
SUPPORT. The proofs of family 30_encoding.md: the transaction word (R65); the decoder check by check and its first matching
row (R67); that encoding and decoding undo each other (R66, R72); what the host's polls test (R78, R134); and that a command's
hold ends (R126).
-/

namespace Sys2Proof

open Sys2Proof.Machine

/-! ## The transaction word (R65) -/

/-- A word above `n` bits of another is that word times `2^n` and the other added. -/
theorem toNat_append_eq_add {m n : Nat} (x : BitVec m) (y : BitVec n) : (x ++ y).toNat = x.toNat * 2 ^ n + y.toNat := by
  rw [BitVec.toNat_append, ← Nat.shiftLeft_add_eq_or_of_lt y.isLt, Nat.shiftLeft_eq]

theorem mkTxn_toNat (w : Bool) (a : Offset) (d : Word) :
    (mkTxn w a d).toNat = w.toNat * 2 ^ 50 + a.toNat * 2 ^ 32 + d.toNat := by
  unfold mkTxn
  rw [toNat_append_eq_add, toNat_append_eq_add, BitVec.toNat_ofBool]
  ring

/-- Settles O1: the word is its three fields appended, and each is read back from where it was put. -/
theorem transactionWordLayout : Obligations.TransactionWordLayout := by
  refine ⟨fun w a d => ⟨?_, txnWrite_mkTxn w a d, txnOffset_mkTxn w a d, txnData_mkTxn w a d⟩, mkTxn_fields⟩
  rw [mkTxn_toNat]
  cases w <;> rfl

/-- Settles O2: the decoder evaluated at each word of the list. -/
theorem specWordsDecode : Obligations.SpecWordsDecode := by
  refine ⟨?_, ?_, ?_, ?_, ?_, ?_, ?_, ?_, ?_, ?_, ?_, ?_, ?_, ?_, ?_, ?_, ?_, ?_⟩ <;> rfl

/-! ## The offsets of the windows (R47, R48) -/

theorem pixOffset_eq (i : BitVec 10) : pixOffset i = BitVec.ofNat 18 (0x01000 + 4 * i.toNat) := by
  have hi := i.isLt
  rw [← BitVec.toNat_inj, BitVec.toNat_ofNat]
  unfold pixOffset
  simp only [toNat_append_eq_add, BitVec.toNat_ofNat]
  omega

theorem encOffset_eq (k : BitVec 15) : encOffset k = BitVec.ofNat 18 (0x20000 + 4 * k.toNat) := by
  have hk := k.isLt
  rw [← BitVec.toNat_inj, BitVec.toNat_ofNat]
  unfold encOffset
  simp only [toNat_append_eq_add, BitVec.toNat_ofNat]
  omega

/-! ## The word of an instruction decodes to it (R66, R72) -/

/-- The read of `PIX[i]` at its offset (R47). -/
theorem decode_rdPix (i : BitVec 10) :
    decode (mkTxn false (BitVec.ofNat 18 (0x01000 + 4 * i.toNat)) 0#32) = .ok (.rdPix i) := by
  rw [decode_read (by simp), readInstr, regionOf_pixAddress]
  simp

/-- The read of `ENC[k]` at its offset (R48). -/
theorem decode_rdEnc (k : BitVec 15) :
    decode (mkTxn false (BitVec.ofNat 18 (0x20000 + 4 * k.toNat)) 0#32) = .ok (.rdEnc k) := by
  rw [decode_read (by simp), readInstr, regionOf_encAddress]
  simp

theorem regionOf_outside_windows {a : Offset} (hal : a.toNat % 4 = 0)
    (h : a.toNat < 0x01000 ∨ 0x02000 ≤ a.toNat ∧ a.toNat < 0x20000) :
    (∀ i, regionOf a ≠ .pix i) ∧ ∀ k, regionOf a ≠ .enc k := by
  have hc := regionOf_covers hal
  refine ⟨fun i hr => ?pix, fun k hr => ?enc⟩ <;> rw [hr] at hc
  case pix =>
    obtain ⟨-, hwin, -⟩ := hc
    rw [pixWindow_iff] at hwin
    omega
  case enc =>
    obtain ⟨-, -, hwin, -⟩ := hc
    rw [encWindow_iff] at hwin
    omega

/-- The offsets of R93 belong to row 18. -/
theorem readInstr_of_readsZero {a : Offset} (hal : a.toNat % 4 = 0) (h : readsZero a = true) :
    readInstr a = .rdZero a := by
  have hc := regionOf_covers hal
  rw [readsZero_iff] at h
  obtain ⟨hpix, henc⟩ := regionOf_outside_windows hal (by omega)
  unfold readInstr
  cases hr : regionOf a
  case ctrl | reserved => rfl
  case pix i => exact absurd hr (hpix i)
  case enc k => exact absurd hr (henc k)
  all_goals
    rw [hr] at hc
    obtain rfl : a = _ := hc
    exact absurd h (by decide)

/-- The offsets of R94 belong to row 19. -/
theorem writeInstr_of_writeIgnored {a : Offset} (hal : a.toNat % 4 = 0) (h : writeIgnored a = true) (d : Word) :
    writeInstr a d = .ok (.wrIgnored a d) := by
  have hc := regionOf_covers hal
  rw [writeIgnored_iff] at h
  obtain ⟨hpix, henc⟩ := regionOf_outside_windows hal (by omega)
  unfold writeInstr
  cases hr : regionOf a
  case ctrl | bright =>
    rw [hr] at hc
    obtain rfl : a = _ := hc
    exact absurd h (by decide)
  case pix i => exact absurd hr (hpix i)
  case enc k => exact absurd hr (henc k)
  all_goals rfl

/-- Settles O4, row by row: the register rows carry their own offset, the windows the offset of their index, and the
catch-alls an offset that well-formedness leaves to them. -/
theorem decodeOfEncode : Obligations.DecodeOfEncode := by
  intro i hwf
  cases i
  case wrBright d => exact decode_write (a := 0x00008#18) rfl d
  case rdPix i => rw [encode, pixOffset_eq, decode_rdPix]
  case wrPix i d => rw [encode, pixOffset_eq, decode_wrPix]
  case rdEnc k => rw [encode, encOffset_eq, decode_rdEnc]
  case wrEnc k d => rw [encode, encOffset_eq, decode_wrEnc]
  case rdZero a =>
    obtain ⟨hal, hzero⟩ := Bool.and_eq_true_iff.mp hwf
    rw [alignedOffset_iff] at hal
    rw [encode, decode_read hal, readInstr_of_readsZero hal hzero]
  case wrIgnored a d =>
    obtain ⟨hal, hignored⟩ := Bool.and_eq_true_iff.mp hwf
    rw [alignedOffset_iff] at hal
    rw [encode, decode_write hal, writeInstr_of_writeIgnored hal hignored]
  all_goals rfl

/-! ## The instruction a word decodes to has that word (R67, R72) -/

/-- The fields of a PIX window offset determine it (R47). -/
theorem pixOffset_index {a : Offset} {i : Nat} (hal : a.toNat % 4 = 0) (hc : Region.Covers a (.pix i)) :
    pixOffset (BitVec.ofNat 10 i) = a := by
  obtain ⟨-, hwin, hindex, -⟩ := hc
  obtain ⟨hlo, hhi⟩ := (pixWindow_iff a).mp hwin
  rw [← hindex, pixField_eq ⟨hlo, hhi⟩, pixOffset_eq, ← BitVec.toNat_inj, BitVec.toNat_ofNat, BitVec.toNat_ofNat]
  omega

/-- The fields of an ENC window offset determine it (R48). -/
theorem encOffset_index {a : Offset} {k : Nat} (hal : a.toNat % 4 = 0) (hc : Region.Covers a (.enc k)) :
    encOffset (BitVec.ofNat 15 k) = a := by
  obtain ⟨-, -, hwin, hindex, -⟩ := hc
  have hlo := (encWindow_iff a).mp hwin
  have ha := a.isLt
  rw [← hindex, encField_eq hlo, encOffset_eq, ← BitVec.toNat_inj, BitVec.toNat_ofNat, BitVec.toNat_ofNat]
  omega

theorem encode_readInstr {a : Offset} (hal : a.toNat % 4 = 0) : encode (readInstr a) = mkTxn false a 0#32 := by
  have hc := regionOf_covers hal
  unfold readInstr
  cases hr : regionOf a <;> rw [hr] at hc
  case pix => simp only [encode, pixOffset_index hal hc]
  case enc => simp only [encode, encOffset_index hal hc]
  case reserved => rfl
  all_goals
    obtain rfl : a = _ := hc
    rfl

/-- The word of a command is the CTRL write of its code (R70). -/
theorem encode_commandInstr {d : Word} {i : Instr} (h : commandInstr d = .ok i) : encode i = mkTxn true 0x00000#18 d := by
  unfold commandInstr at h
  split_ifs at h with h0 h1 h2 h3 h4
  all_goals
    subst d
    cases h
    rfl

theorem encode_writeInstr {a : Offset} {d : Word} {i : Instr} (hal : a.toNat % 4 = 0) (h : writeInstr a d = .ok i) :
    encode i = mkTxn true a d := by
  have hc := regionOf_covers hal
  unfold writeInstr at h
  cases hr : regionOf a <;> rw [hr] at hc h
  case ctrl =>
    obtain rfl : a = _ := hc
    exact encode_commandInstr h
  case pix =>
    cases h
    rw [encode, pixOffset_index hal hc]
  case enc =>
    cases h
    rw [encode, encOffset_index hal hc]
  case bright =>
    obtain rfl : a = _ := hc
    cases h
    rfl
  all_goals
    cases h
    rfl

/-- Settles O5: a word that decodes is an aligned read without data or an aligned write, and the row of its offset keeps
every bit of it. -/
theorem encodeOfDecode : Obligations.EncodeOfDecode := by
  intro t i h
  refine ⟨decode_wf h, ?_⟩
  rw [← mkTxn_fields t] at h ⊢
  obtain ⟨hal, hread, -, -⟩ := decode_mkTxn_ok h
  rw [alignedOffset_iff] at hal
  cases hw : txnWrite t <;> rw [hw] at h
  case false =>
    rw [hread hw] at h ⊢
    cases (decode_read hal).symm.trans h
    exact encode_readInstr hal
  case true => exact encode_writeInstr hal ((decode_write hal (txnData t)).symm.trans h)

/-! ## The rows of the opcode map (R67, R72) -/

theorem OpcodeRow.admits_iff (r : OpcodeRow) (t : Txn) : r.admits t = true ↔ t &&& r.mask = r.pattern := beq_iff_eq

/-- The catch-alls take every aligned read without data and every aligned write. -/
theorem catchAll_admits {t : Txn} (hal : alignedOffset (txnOffset t) = true)
    (hread : txnWrite t = false → txnData t = 0#32) : ∃ row ∈ catchAllRows, row.admits t = true := by
  rw [← mkTxn_fields t]
  cases hw : txnWrite t
  case false => exact ⟨_, .head _, by rw [admits_rdZero, hal, hread hw]; rfl⟩
  case true => exact ⟨_, .tail _ (.head _), by rw [admits_wrIgnored, hal]; rfl⟩

/-- What some row of the map takes has a first row that takes it. -/
theorem exists_first_row {t : Txn} (h : ∃ row ∈ opcodeTable, row.admits t = true) :
    ∃ before row after, opcodeTable = before ++ row :: after ∧ t &&& row.mask = row.pattern ∧
      (∀ r ∈ before, t &&& r.mask ≠ r.pattern) ∧ opcodeTable.find? (fun r => r.admits t) = some row := by
  obtain ⟨row, hrow⟩ := Option.isSome_iff_exists.mp (List.find?_isSome.mpr h)
  obtain ⟨hadmits, before, after, htable, hbefore⟩ := List.find?_eq_some_iff_append.mp hrow
  refine ⟨before, row, after, htable, (row.admits_iff t).mp hadmits, fun r hr => ?_, hrow⟩
  rw [ne_eq, ← r.admits_iff t]
  simpa using hbefore r hr

/-- Two rows have no word in common where they ask for different values of the bits that both fix. -/
theorem OpcodeRow.disjoint {p q : OpcodeRow} (h : p.pattern &&& q.mask ≠ q.pattern &&& p.mask) (t : Txn) :
    ¬ (t &&& p.mask = p.pattern ∧ t &&& q.mask = q.pattern) := by
  rintro ⟨hp, hq⟩
  apply h
  calc p.pattern &&& q.mask = t &&& p.mask &&& q.mask := by rw [hp]
    _ = t &&& q.mask &&& p.mask := by ac_rfl
    _ = q.pattern &&& p.mask := by rw [hq]

theorem exactRows_pairwise :
    exactRows.Pairwise fun p q => p.pattern &&& q.mask ≠ q.pattern &&& p.mask := by
  decide

/-! ## The checks of the decoder (R67) -/

/-- The reserved bits of a command word are its value from 16 on (R69). -/
theorem fieldCtrlReserved_ne_zero_iff (t : Txn) : fieldCtrlReserved t ≠ 0#28 ↔ (txnData t).toNat / 16 ≠ 0 := by
  rw [fieldCtrlReserved, ne_eq, ctrlReserved_eq_zero_iff]
  omega

theorem fieldCmd_toNat (t : Txn) : (fieldCmd t).toNat = (txnData t).toNat % 16 := by
  simp [fieldCmd]

/-- Settles O3: the checks of `decode` are those of R67 in numbers, a catch-all takes what passes them, and the rows before
the catch-alls differ in a bit that both fix. -/
theorem decodeStepsInOrder : Obligations.DecodeStepsInOrder := by
  refine ⟨fun t => ?checks, fun t hal hread => ?catchAlls, exactRows_pairwise.imp OpcodeRow.disjoint⟩
  case catchAlls => simpa only [OpcodeRow.admits_iff] using catchAll_admits ((alignedOffset_iff _).mpr hal) hread
  case checks =>
    unfold decode
    simp only [← fieldCtrlReserved_ne_zero_iff, ← fieldCmd_toNat, ne_eq, ← alignedOffset_iff, Bool.not_eq_true]
    split_ifs with hal hread hbits hcmd
    · rfl
    · rfl
    · rfl
    · rfl
    · obtain ⟨row, hmem, hadmits⟩ := catchAll_admits (by simpa using hal) (by simpa using hread)
      obtain ⟨before, first, after, htable, hfirst, hbefore, hfind⟩ :=
        exists_first_row ⟨row, List.mem_append_right _ hmem, hadmits⟩
      exact ⟨before, first, after, htable, hfirst, hbefore, by rw [hfind]⟩

/-! ## The host's polls (R78, R134) -/

theorem waitIdleDone_statusWord (s : State) : waitIdleDone (statusWord s) = (!busyFlag s && !gapFlag s) := by
  unfold statusWord
  cases faultFlag s <;> cases gapFlag s <;> cases busyFlag s <;> rfl

theorem waitNotBusyDone_statusWord (s : State) : waitNotBusyDone (statusWord s) = !busyFlag s := by
  unfold statusWord
  cases faultFlag s <;> cases gapFlag s <;> cases busyFlag s <;> rfl

theorem sendOk_statusWord (s : State) : sendOk (statusWord s) = !faultFlag s := by
  unfold statusWord
  cases faultFlag s <;> cases gapFlag s <;> cases busyFlag s <;> rfl

/-- Settles O60: each mask picks the flags it tests out of the STATUS word. -/
theorem pollConditions : Obligations.PollConditions := by
  intro s
  rw [waitIdleDone_statusWord, waitNotBusyDone_statusWord, sendOk_statusWord]
  simp [busyFlag, gapFlag, faultFlag]

/-! ## The commands (R70, R126) -/

/-- The five commands of CTRL (R70). -/
def commandInstrs : List Instr := [.nop, .send, .encode, .sendStream, .idleGap]

/-- A command is a body under the acceptance rule, and no body touches what the host has issued. -/
theorem exec_command {c : Instr} (h : c ∈ commandInstrs) :
    ∃ body : State → State, exec c = accept body ∧ ∀ s, (body s).host = s.host := by
  simp only [commandInstrs, List.mem_cons, List.not_mem_nil, or_false] at h
  rcases h with rfl | rfl | rfl | rfl | rfl
  · exact ⟨id, rfl, fun _ => rfl⟩
  · exact ⟨fun s => s.loadStream.startFrame, rfl, fun _ => rfl⟩
  · exact ⟨State.loadStream, rfl, fun _ => rfl⟩
  · exact ⟨State.startFrame, rfl, fun _ => rfl⟩
  · exact ⟨State.startGap, rfl, fun _ => rfl⟩

/-- A command holds in BUSY and GAP. -/
theorem exec_command_held {c : Instr} (h : c ∈ commandInstrs) {s : State} (hp : s.phase = .busy ∨ s.phase = .gap) :
    exec c s = .next s := by
  obtain ⟨body, hbody, -⟩ := exec_command h
  rw [hbody]
  exact hp.elim accept_busy accept_gap

/-- In IDLE a command is performed, and the host goes on to its next transaction. -/
theorem exec_command_idle {c : Instr} (h : c ∈ commandInstrs) {s : State} (hp : s.phase = .idle) :
    ∃ u, exec c s = .next u ∧ u.host = s.host.tail := by
  obtain ⟨body, hbody, hhost⟩ := exec_command h
  exact ⟨(body s).complete, by rw [hbody, accept_idle hp], by rw [State.complete_host, hhost]⟩

/-! ## A hold ends (R79, R120, R126) -/

/-- The ticks of a healthy bus until PHASE = IDLE: the rest of the frame, and the gap. HALTED, which no such tick leaves,
has none. -/
def ticksToIdle (s : State) : Nat :=
  match s.phase with
  | .idle => 0
  | .busy => 8 * s.cfg.len - (8 * s.pos + s.slot.val) + s.cfg.resetTicks
  | .gap => s.gapcnt
  | .halted => 0

theorem ticksToIdle_busy {s : State} (h : s.phase = .busy) :
    ticksToIdle s = 8 * s.cfg.len - (8 * s.pos + s.slot.val) + s.cfg.resetTicks := by
  simp [ticksToIdle, h]

theorem ticksToIdle_gap {s : State} (h : s.phase = .gap) : ticksToIdle s = s.gapcnt := by
  simp [ticksToIdle, h]

theorem Inv.ticksToIdle_le {s : State} (h : Inv s) : ticksToIdle s ≤ 8 * s.cfg.len + s.cfg.resetTicks := by
  have hgap := h.gapRange
  unfold ticksToIdle
  split <;> omega

/-- In BUSY and GAP there is a tick to come: a gap has at least one (R6, R34 (b)). -/
theorem Inv.ticksToIdle_pos {s : State} (h : Inv s) (hp : s.phase = .busy ∨ s.phase = .gap) : 1 ≤ ticksToIdle s := by
  rcases hp with hb | hg
  · have := legal_resetTicks h.legal
    rw [ticksToIdle_busy hb]
    omega
  · rw [ticksToIdle_gap hg]
    exact h.gapRuns hg

/-- The slot sent brings IDLE one tick nearer, the last slot of the frame too, where the gap begins. -/
theorem advance_ticksToIdle {s : State} (hp : s.phase = .busy) (hpos : s.pos < s.cfg.len) :
    ticksToIdle s.advance + 1 = ticksToIdle s := by
  rw [ticksToIdle_busy hp]
  rcases advance_cases s with ⟨hslot, e⟩ | ⟨hslot, hnext, e⟩ | ⟨hslot, hlast, e⟩ <;> rw [e]
  · rw [ticksToIdle_busy (s := { s with slot := s.slot + 1 }) hp]
    simp only [Fin.val_add_one_of_lt' (show s.slot.val + 1 < 8 by omega)]
    omega
  · rw [ticksToIdle_busy (s := { s with slot := 0, pos := s.pos + 1 }) hp]
    simp only [hslot]
    omega
  · rw [ticksToIdle_gap rfl, State.endFrame_gapcnt, hslot]
    omega

theorem shiftOut_ticksToIdle {s : State} (hp : s.phase = .busy) (hpos : s.pos < s.cfg.len) :
    ticksToIdle s.shiftOut + 1 = ticksToIdle s :=
  advance_ticksToIdle (s := { s with dout := s.currentBit }) hp hpos

/-- A tick of a healthy bus in BUSY or GAP brings IDLE one tick nearer. -/
theorem tickEffect_ticksToIdle {s t : State} (h : TickEffect s false t) (hp : s.phase = .busy ∨ s.phase = .gap) :
    ticksToIdle t + 1 = ticksToIdle s := by
  cases h with
  | idle _ hi | halted _ hi => simp [hi] at hp
  | shift hb hpos => exact shiftOut_ticksToIdle hb hpos
  | gapEnd _ hg h1 => rw [ticksToIdle_gap hg, h1]; rfl
  | gapRun _ hg g h2 => rw [ticksToIdle_gap hg, h2, ticksToIdle_gap (s := { s with dout := false, gapcnt := g + 1 }) hg]

/-- On a healthy bus FAULT is not raised, so HALTED is not entered (R34 (e), R145). -/
theorem Inv.tickEffect_not_halted {s t : State} (h : Inv s) (hp : s.phase ≠ .halted) (he : TickEffect s false t) :
    t.phase ≠ .halted := by
  intro ht
  have hfault := tickEffect_fault he
  simp [(h.tickEffect he).faultHalted.mpr ht, h.not_fault hp, tickRaises_eq] at hfault

theorem tickEffect_host {s t : State} {bf : Bool} (h : TickEffect s bf t) : t.host = s.host := by
  cases h <;> simp

theorem tickEffect_script {s t : State} {bf : Bool} (h : TickEffect s bf t) : t.script = s.script := by
  cases h <;> simp

/-- The access `a` is pending, asks for the command `c`, and has `q` behind it; the sequencer is not in HALTED. -/
structure Waits (a : Access) (q : List Access) (c : Instr) (s : State) : Prop where
  inv : Inv s
  notHalted : s.phase ≠ .halted
  pending : s.host = a :: q
  decoded : a.decode = .ok c
  command : c ∈ commandInstrs

section
variable {a : Access} {q : List Access} {c : Instr} {s : State} {us : List Turn}

/-- Before IDLE a host turn leaves the command pending and takes nothing but the turn. -/
theorem Waits.step_host (h : Waits a q c s) (hp : s.phase = .busy ∨ s.phase = .gap) (hs : s.script = .host :: us) :
    step s = .next { s with script := us } := by
  rw [step_of_script h.inv.legal hs]
  have hturn : hostTurn { s with script := us } = exec c { s with script := us } := hostTurn_cons h.pending h.decoded
  exact hturn.trans (exec_command_held h.command hp)

/-- A tick of a healthy bus answers a next state, by one of its effects. -/
theorem Waits.step_tick (h : Waits a q c s) (hs : s.script = .tick false :: us) :
    ∃ t, step s = .next t ∧ TickEffect { s with script := us } false t := by
  obtain ⟨t, ht⟩ := tick_some (s := { s with script := us }) false (fun _ => h.inv.posRange) h.inv.gapRuns
  exact ⟨t, (step_of_script h.inv.legal hs).trans ht, tick_next ht⟩

theorem Waits.dropTurn (h : Waits a q c s) : Waits a q c { s with script := us } :=
  { h with inv := { h.inv with } }

/-- Before IDLE a turn of a healthy bus keeps the command waiting, and a tick brings IDLE nearer. -/
theorem Waits.step_healthy {u : Turn} (h : Waits a q c s) (hp : s.phase = .busy ∨ s.phase = .gap)
    (hs : s.script = u :: us) (hu : healthy u = true) :
    ∃ t, step s = .next t ∧ Waits a q c t ∧ t.script = us ∧ ticksToIdle s = ticksToIdle t + [u].countP isTick := by
  have hdrop : Waits a q c { s with script := us } := h.dropTurn
  cases u with
  | host => exact ⟨_, h.step_host hp hs, hdrop, rfl, rfl⟩
  | tick bf =>
    obtain rfl : bf = false := by simpa [healthy] using hu
    obtain ⟨t, hstep, he⟩ := h.step_tick hs
    refine ⟨t, hstep, ⟨hdrop.inv.tickEffect he, hdrop.inv.tickEffect_not_halted hdrop.notHalted he, ?_, h.decoded,
      h.command⟩, tickEffect_script he, (tickEffect_ticksToIdle he hp).symm⟩
    exact (tickEffect_host he).trans h.pending
  | reset => simp [healthy] at hu

theorem phase_cases_of_not_halted (hp : s.phase ≠ .halted) : s.phase = .idle ∨ s.phase = .busy ∨ s.phase = .gap := by
  cases h : s.phase <;> simp [h] at hp ⊢

/-- With as many ticks to come as IDLE is away, IDLE is reached, with the command still pending. -/
theorem Waits.reaches_idle {turns rest : List Turn} (h : Waits a q c s) (hs : s.script = turns ++ rest)
    (hhealthy : ∀ u ∈ turns, healthy u = true) (hticks : ticksToIdle s ≤ turns.countP isTick) :
    ∃ n t, n ≤ turns.length ∧ run n s = .next t ∧ t.phase = .idle ∧ Waits a q c t ∧
      t.script = turns.drop n ++ rest := by
  induction turns generalizing s with
  | nil =>
    rcases phase_cases_of_not_halted h.notHalted with hidle | hp
    · exact ⟨0, s, Nat.zero_le _, rfl, hidle, h, hs⟩
    · exact absurd (h.inv.ticksToIdle_pos hp) (by simpa using hticks)
  | cons u us ih =>
    rcases phase_cases_of_not_halted h.notHalted with hidle | hp
    · exact ⟨0, s, Nat.zero_le _, rfl, hidle, h, hs⟩
    · rw [List.forall_mem_cons] at hhealthy
      obtain ⟨t, hstep, ht, hscript, hnear⟩ := h.step_healthy hp hs hhealthy.1
      rw [← List.singleton_append, List.countP_append, hnear] at hticks
      obtain ⟨n, t', hn, hrun, hidle, ht', hscript'⟩ := ih ht hscript hhealthy.2 (by omega)
      exact ⟨n + 1, t', Nat.succ_le_succ hn, (run_succ n hstep).trans hrun, hidle, ht', hscript'⟩

end

/-- Settles O58: IDLE is at most the ticks of a frame and a gap away, and there the command is performed. -/
theorem holdEndsInTime : Obligations.HoldEndsInTime := by
  intro s a q c turns rest hinv hp hh hd hc hs hhealthy hticks
  have hwaits : Waits a q c s := ⟨hinv, hp, hh, hd, hc⟩
  obtain ⟨n, t, hn, hrun, hidle, ht, hscript⟩ :=
    hwaits.reaches_idle hs hhealthy (hinv.ticksToIdle_le.trans_eq hticks.symm)
  obtain ⟨u, hexec, hhost⟩ := exec_command_idle ht.command hidle
  exact ⟨n, t, u, hn, hrun, hidle, ht.pending, hscript, hexec, by rw [hhost, ht.pending, List.tail_cons]⟩

end Sys2Proof
end

section
/-!
SUPPORT. The proofs of family 40_host_access.md: everything the 14 rows that are not commands can do (R80), the value each
read returns as a number (R81 to R91), and the offsets of the catch-all rows (R93, R94).
-/

namespace Sys2Proof

open Sys2Proof.Machine

/-! ## The frame of a host access (R80) -/

/-- Everything a row that is not a command can do to the state, with the one row that holds (R80, R92). -/
inductive AccessEffect (s : State) : Instr → State → Prop where
  | reply {i : Instr} (v : Word) : AccessEffect s i (s.reply v)
  | bright {i : Instr} (v : Byte) : AccessEffect s i (s.writeBright v).complete
  | pix {i : Instr} (n : Nat) (p : Color) : AccessEffect s i (s.writePix n p).complete
  | enc {i : Instr} (k : Nat) (v : Byte) : AccessEffect s i (s.writeEnc k v).complete
  | ignored {i : Instr} : AccessEffect s i s.complete
  | held (k : BitVec 15) (d : Word) (h : s.phase = .busy) : AccessEffect s (.wrEnc k d) s

/-- A row that is not a command answers a next state: it replies, stores in one element, or holds as WR_ENC in BUSY. -/
theorem exec_access_effect {i : Instr} (h : i ∉ commandInstrs) (s : State) :
    ∃ t, exec i s = .next t ∧ AccessEffect s i t := by
  cases i
  case nop | send | encode | sendStream | idleGap => exact absurd (by decide) h
  case wrBright d => exact ⟨_, rfl, .bright _⟩
  case wrPix i d => exact ⟨_, rfl, .pix _ _⟩
  case wrEnc k d =>
    by_cases hp : s.phase = .busy
    · exact ⟨s, exec_wrEnc_busy hp k d, .held k d hp⟩
    · exact ⟨_, exec_wrEnc_stores hp k d, .enc _ _⟩
  case wrIgnored a d => exact ⟨_, rfl, .ignored⟩
  all_goals exact ⟨_, rfl, .reply _⟩

theorem AccessEffect.sequencer {s t : State} {i : Instr} (h : AccessEffect s i t) :
    t.phase = s.phase ∧ t.fault = s.fault ∧ t.pos = s.pos ∧ t.slot = s.slot ∧ t.gapcnt = s.gapcnt ∧ t.dout = s.dout := by
  cases h <;> simp

/-- Of PIX, ENC and BRIGHT two stay as they are. -/
theorem AccessEffect.one_element {s t : State} {i : Instr} (h : AccessEffect s i t) :
    (t.pix = s.pix ∧ t.enc = s.enc) ∨ (t.pix = s.pix ∧ t.bright = s.bright) ∨ (t.enc = s.enc ∧ t.bright = s.bright) := by
  cases h with
  | reply _ | bright _ | ignored | held _ _ _ => exact .inl ⟨rfl, rfl⟩
  | enc k v => exact .inr (.inl ⟨State.writeEnc_pix s k v, State.writeEnc_bright s k v⟩)
  | pix n p => exact .inr (.inr ⟨State.writePix_enc s n p, State.writePix_bright s n p⟩)

/-- Only the hold of WR_ENC leaves the transaction pending. -/
theorem AccessEffect.completes_or_held {s t : State} {i : Instr} (h : AccessEffect s i t) :
    t.host = s.host.tail ∨ (t = s ∧ s.phase = .busy ∧ ∃ k d, i = .wrEnc k d) := by
  cases h with
  | held k d hp => exact .inr ⟨rfl, hp, k, d, rfl⟩
  | reply _ | bright _ | ignored => exact .inl rfl
  | pix n p => exact .inl (by simp)
  | enc k v => exact .inl (by simp)

/-- Settles O24: whatever such a row does, it leaves the sequencer, two of the three elements, and no other row pending. -/
theorem hostAccessFrame : Obligations.HostAccessFrame := by
  intro i s hi
  obtain ⟨t, ht, he⟩ := exec_access_effect hi s
  exact ⟨t, ht, he.sequencer, he.one_element, he.completes_or_held⟩

/-! ## RD_STATUS (R81) -/

/-- The expression of R81 is the STATUS word, flag by flag. -/
theorem statusWord_eq_or (s : State) :
    statusWord s = (if s.phase = .busy then 1#32 else 0#32) ||| (if s.phase = .gap then 2#32 else 0#32) |||
      ((if s.fault then 1#32 else 0#32) <<< 2) := by
  unfold statusWord busyFlag gapFlag faultFlag
  cases s.phase <;> cases s.fault <;> rfl

/-- A frame accepted without FAULT sets BUSY alone (R128, R129). -/
theorem statusWord_startFrame {s : State} (h : s.fault = false) : statusWord s.startFrame.complete = 1#32 :=
  statusWord_eq_phaseStatus (s := s.startFrame.complete) h

/-- Settles O12: the reply is the STATUS word, which in HALTED, after a frame is accepted and after reset is
`phaseStatus` of the phase. -/
theorem readStatusReturnsFlags : Obligations.ReadStatusReturnsFlags := by
  refine ⟨by rfl, fun s => ⟨statusWord s, rfl, statusWord_eq_or s, fun hinv hp => ?halted, fun hinv hp => ?idle,
    statusWord_eq_phaseStatus rfl, rfl⟩⟩
  case halted => rw [statusWord_eq_phaseStatus hinv.fault_eq, hp, phaseStatus]
  case idle =>
    have hfault : s.fault = false := by simp [hinv.fault_eq, hp]
    have hsend : exec .send s = .next s.loadStream.startFrame.complete :=
      accept_idle (body := fun s => s.loadStream.startFrame) hp
    have hstream : exec .sendStream s = .next s.startFrame.complete := accept_idle hp
    exact ⟨_, _, ⟨hsend, hstream⟩, statusWord_startFrame (s := s.loadStream) hfault, statusWord_startFrame hfault⟩

/-! ## BRIGHT (R82, R83) -/

theorem wordOfByte_toNat (v : Byte) : (wordOfByte v).toNat = v.toNat :=
  BitVec.toNat_setWidth_of_le (by decide)

/-- Settles O14: RD_BRIGHT replies BRIGHT zero-extended. -/
theorem readBrightReturnsFactor : Obligations.ReadBrightReturnsFactor :=
  ⟨by rfl, fun s => ⟨_, rfl, wordOfByte_toNat s.bright⟩, fun _ => ⟨_, rfl, rfl⟩⟩

/-- Settles O15: the write is row 8 of the map, and stores the low byte without looking at the phase. -/
theorem writeBrightStoresLowByte : Obligations.WriteBrightStoresLowByte := by
  refine ⟨fun d => decode_write (a := 0x00008#18) rfl d, fun d s => ?_⟩
  have hbyte : lowByte d = BitVec.ofNat 8 (d.toNat % 256) := by
    rw [lowByte_eq, ← BitVec.toNat_inj, BitVec.toNat_ofNat, BitVec.toNat_ofNat, Nat.mod_mod]
  rw [← hbyte]
  rfl

/-! ## The PARAM registers (R84 to R87) -/

/-- In a legal configuration PARAM_N, PARAM_HDR and PARAM_LEN fit in 32 bits (R6, R33). -/
theorem params_toNat {c : Config} (h : c.legal = true) :
    c.paramN.toNat = c.n ∧ c.paramHdr.toNat = c.headerLen ∧ c.paramLen.toNat = c.len := by
  obtain ⟨⟨-, hn⟩, hhdr, -⟩ := (legal_iff c).mp h
  obtain ⟨-, hlen⟩ := legal_len h
  refine ⟨?_, ?_, ?_⟩ <;> exact Nat.mod_eq_of_lt (by omega)

/-- Settles O16: the four reads reply their registers, which lie where the bounds of R6 put them. -/
theorem readParamsReturnConfiguration : Obligations.ReadParamsReturnConfiguration := by
  refine ⟨⟨by rfl, by rfl, by rfl, by rfl⟩, fun s hl => ?_⟩
  obtain ⟨hn, hhdr, hlen⟩ := params_toNat hl
  obtain ⟨⟨hn1, hn1024⟩, -⟩ := (legal_iff s.cfg).mp hl
  obtain ⟨hlen12, hlenMax⟩ := legal_len hl
  rw [← hn] at hn1 hn1024
  rw [← hlen] at hlen12 hlenMax
  exact ⟨_, _, _, _, ⟨rfl, hn, hn1, hn1024⟩, ⟨rfl, hhdr⟩, ⟨rfl, hlen, hlen12, hlenMax⟩, rfl, rfl⟩

/-! ## Reads of the PIX and ENC windows (R89, R91) -/

theorem wordOfColor_toNat (p : Color) :
    (wordOfColor p).toNat = p.r.toNat * 2 ^ 16 + p.g.toNat * 2 ^ 8 + p.b.toNat := by
  unfold wordOfColor
  simp only [toNat_append_eq_add, BitVec.toNat_ofNat]
  ring

theorem pixWord_toNat (s : State) (i : Nat) :
    (s.pixWord i).toNat = if i < s.cfg.n then
      (s.pixAt i).r.toNat * 2 ^ 16 + (s.pixAt i).g.toNat * 2 ^ 8 + (s.pixAt i).b.toNat else 0 := by
  rw [State.pixWord, apply_ite BitVec.toNat, wordOfColor_toNat]
  rfl

theorem encWord_toNat (s : State) (k : Nat) :
    (s.encWord k).toNat = if k < s.cfg.len then (s.encAt k).toNat else 0 := by
  rw [State.encWord, apply_ite BitVec.toNat, wordOfByte_toNat]
  rfl

/-- Settles O18: RD_PIX replies the word of the PIX window at its index. -/
theorem readPixReturnsColor : Obligations.ReadPixReturnsColor :=
  ⟨decode_rdPix, fun i s => ⟨_, rfl, pixWord_toNat s i.toNat⟩⟩

/-- Settles O20: RD_ENC replies the word of the ENC window at its index. -/
theorem readEncReturnsByte : Obligations.ReadEncReturnsByte :=
  ⟨decode_rdEnc, fun k s => ⟨_, rfl, encWord_toNat s k.toNat⟩⟩

/-! ## The catch-all rows (R93, R94) -/

/-- Settles O22: an aligned read of an offset of R93 belongs to row 18, which replies 0. -/
theorem readZeroReturnsZero : Obligations.ReadZeroReturnsZero := by
  refine ⟨fun a hal ha => ?_, fun _ _ => rfl⟩
  have hzero : readsZero a = true := (readsZero_iff a).mpr (by bv_omega)
  rw [decode_read hal, readInstr_of_readsZero hal hzero]

/-- Settles O23: an aligned write of an offset of R94 belongs to row 19, which only completes. -/
theorem writeIgnoredChangesNothing : Obligations.WriteIgnoredChangesNothing := by
  refine ⟨fun a d hal ha => ?_, fun _ _ _ => rfl⟩
  have hignored : writeIgnored a = true := (writeIgnored_iff a).mpr (by bv_omega)
  rw [decode_write hal, writeInstr_of_writeIgnored hal hignored]

end Sys2Proof
end

section
/-!
SUPPORT. The proofs of family 41_protocol_encoder.md: the scale stage (R95, R107); the bytes of a channel (R96 to R98), of the
stream (R99 to R104) and their slots (R105); the inverse (R106); and the two commands that encode PIX (R111, R112, R128).
-/

namespace Sys2Proof

open Sys2Proof.Machine

/-! ## The scale stage (R95, R107) -/

theorem scale8_comm (c f : Byte) : scale8 c f = scale8 f c := by
  unfold scale8
  rw [Nat.mul_comm]

theorem scale8_eq_zero {c f : Byte} (h : c.toNat * f.toNat < 255) : scale8 c f = 0#8 := by
  apply BitVec.eq_of_toNat_eq
  rw [scale8_toNat, Nat.div_eq_of_lt h, BitVec.toNat_ofNat]

/-- A larger factor gives no smaller value (R107 (d)). -/
theorem scale8_mono (c : Byte) {f f' : Byte} (h : f'.toNat ≤ f.toNat) : (scale8 c f').toNat ≤ (scale8 c f).toNat := by
  rw [scale8_toNat, scale8_toNat]
  exact Nat.div_le_div_right (Nat.mul_le_mul_left _ h)

/-- The factor 255 gives the channel itself, and no factor is larger (R107 (a), (c)). -/
theorem scale8_le (c f : Byte) : (scale8 c f).toNat ≤ c.toNat :=
  calc (scale8 c f).toNat ≤ (scale8 c 255#8).toNat := scale8_mono c (Nat.le_of_lt_succ f.isLt)
    _ = c.toNat := by rw [scale8_full]

/-- Settles O42: every law follows from the quotient. -/
theorem scaleLaws : Obligations.ScaleLaws := by
  refine ⟨scale8_toNat, fun _ _ => rfl, fun c => ⟨scale8_full c, ?zero⟩,
    fun c f => ⟨scale8_le c f, Nat.le_of_lt_succ (scale8 c f).isLt⟩, fun c _ _ => scale8_mono c, scale8_comm,
    fun _ _ => scale8_eq_zero, by rfl, by rfl⟩
  case zero => exact scale8_eq_zero (by simp)

/-! ## The bytes of a channel (R96 to R98) -/

/-- The table PAIR is the packing of the two symbols (R97, R98). -/
theorem pairByte_eq_packBits (b : BitVec 2) : pairByte b = packBits (b.getLsbD 1) (b.getLsbD 0) := by
  revert b
  decide

theorem pairByte_mem (b : BitVec 2) : pairByte b ∈ [0x88#8, 0x8E#8, 0xE8#8, 0xEE#8] := by
  revert b
  decide

/-- Byte `j` of a channel is the PAIR byte of its two bits (R98). -/
theorem getElem?_enc8 (v : Byte) {j : Nat} (hj : j < 4) :
    (enc8 v)[j]? = some (pairByte (v.extractLsb' (6 - 2 * j) 2)) := by
  obtain rfl | rfl | rfl | rfl : j = 0 ∨ j = 1 ∨ j = 2 ∨ j = 3 := by omega
  all_goals rfl

/-- Settles O43: each byte is a PAIR byte, and PAIR packs the symbols of its two bits. -/
theorem channelEncoding : Obligations.ChannelEncoding := by
  refine fun v => ⟨enc8_length v, fun j hj => ⟨_, getElem?_enc8 v hj, ?_, pairByte_mem _⟩⟩
  have hhigh : 6 - 2 * j + 1 = 7 - 2 * j := by omega
  rw [pairByte_eq_packBits, BitVec.getLsbD_extractLsb', BitVec.getLsbD_extractLsb', hhigh]
  rfl

/-! ## The bytes of the stream (R99 to R104) -/

/-- Settles O44: the length of the stream is LEN, and LEN is that sum. -/
theorem streamHasLenBytes : Obligations.StreamHasLenBytes :=
  fun _ pix f h => ⟨encodeStream_length h pix f, rfl⟩

/-- `getD_flatMap_range` for the lists of any list's elements, and as an option: where `i` is out of range there is none. -/
theorem getElem?_flatMap_uniform {α β : Type} {g : α → List β} {m : Nat} (hg : ∀ a, (g a).length = m) {j : Nat}
    (hj : j < m) (l : List α) (i : Nat) : (l.flatMap g)[m * i + j]? = l[i]?.bind fun a => (g a)[j]? := by
  induction l generalizing i with
  | nil => rfl
  | cons a l ih =>
    rw [List.flatMap_cons]
    cases i with
    | zero => simp [List.getElem?_append_left, hg, hj]
    | succ i =>
      have hskip : m * (i + 1) + j - m = m * i + j := by
        rw [Nat.mul_succ]
        omega
      rw [List.getElem?_append_right (by rw [hg, Nat.mul_succ]; omega), hg, hskip, ih, List.getElem?_cons_succ]

/-- Byte `j` of wire channel `ch` of pixel `i`, by its place in the stream (R98, R101, R103). -/
theorem encodeStream_getElem? {c : Config} (h : c.legal = true) (pix : Nat → Color) (f : Byte) {i ch j : Nat}
    (hi : i < c.n) (hch : ch < 3) (hj : j < 4) :
    (encodeStream c pix f)[c.headerLen + (12 * i + (4 * ch + j))]? =
      (wire c.order ((pix i).scale f))[ch]?.map fun v => pairByte (v.extractLsb' (6 - 2 * j) 2) := by
  have hpix (p : Nat) : (encPix c.order ((pix p).scale f)).length = 12 := by
    rw [encPix_length, legal_order_length h]
  have hbody : (encodeStream c pix f)[c.headerLen + (12 * i + (4 * ch + j))]? =
      (encPix c.order ((pix i).scale f))[4 * ch + j]? := by
    rw [encodeStream, List.getElem?_append_right (by simp), List.length_replicate, Nat.add_sub_cancel_left,
      getElem?_flatMap_uniform hpix (by omega), List.getElem?_range hi, Option.bind_some]
  rw [hbody, encPix, getElem?_flatMap_uniform enc8_length hj]
  simp [getElem?_enc8 _ hj, Option.map_eq_bind]

/-- A legal configuration sends three channels a pixel (R100). -/
theorem exists_wire_channel {c : Config} (h : c.legal = true) (p : Color) {ch : Nat} (hch : ch < 3) :
    ∃ v, (wire c.order p)[ch]? = some v :=
  ⟨_, List.getElem?_eq_getElem (by rwa [wire_length, legal_order_length h])⟩

theorem encodeStream_header {c : Config} (pix : Nat → Color) (f : Byte) {k : Nat} (h : k < c.headerLen) :
    (encodeStream c pix f)[k]? = some 0x00#8 := by
  simp [encodeStream, List.getElem?_append_left, h]

/-- Settles O45: byte `k` is a header byte, or byte `q mod 4` of channel `q mod 12 div 4` of pixel `q div 12`. -/
theorem streamClosedForm : Obligations.StreamClosedForm := by
  intro c pix f k h hk
  unfold streamByte
  split
  next hhdr => exact encodeStream_header pix f hhdr
  next hhdr =>
    obtain ⟨q, rfl⟩ := Nat.exists_eq_add_of_le (Nat.not_lt.mp hhdr)
    have hi : q / 12 < c.n := by
      unfold Config.len at hk
      omega
    obtain ⟨v, hv⟩ := exists_wire_channel h ((pix (q / 12)).scale f) (show q % 12 / 4 < 3 by omega)
    have hbyte := encodeStream_getElem? h pix f hi (show q % 12 / 4 < 3 by omega) (show q % 4 < 4 by omega)
    have hplace : 12 * (q / 12) + (4 * (q % 12 / 4) + q % 4) = q := by omega
    rw [hplace, hv, Option.map_some] at hbyte
    simp [hbyte, hv, List.getD_eq_getElem?_getD]

/-! ## The slots on the line (R105) -/

/-- The high symbol of a PAIR byte stands in slots 0 to 3 and the low one in slots 4 to 7 (R97). -/
theorem pairByte_slot (b : BitVec 2) {half j : Nat} (hh : half < 2) (hj : j < 4) :
    (pairByte b).getLsbD (7 - (4 * half + j)) = (symbol (b.getLsbD (1 - half))).getLsbD (3 - j) := by
  rw [pairByte_eq_packBits, packBits, BitVec.getLsbD_append]
  obtain rfl | rfl : half = 0 ∨ half = 1 := by omega
  · have hoff : 7 - (4 * 0 + j) - 4 = 3 - j := by omega
    rw [if_neg (by omega), hoff]
  · have hoff : 7 - (4 * 1 + j) = 3 - j := by omega
    rw [if_pos (by omega), hoff]

/-- Settles O46: bit 7 - (2 * m + half) stands in byte `m` of its channel, in the half `half` of that byte. -/
theorem symbolPositionOnLine : Obligations.SymbolPositionOnLine := by
  intro c pix f i ch n j h hi hch hn hj
  obtain ⟨m, half, hm, hhalf, rfl⟩ : ∃ m half, m < 4 ∧ half < 2 ∧ n = 7 - (2 * m + half) :=
    ⟨(7 - n) / 2, (7 - n) % 2, by omega, by omega, by omega⟩
  have hslot : 8 * c.headerLen + 96 * i + 32 * ch + 4 * (7 - (7 - (2 * m + half))) + j =
      8 * (c.headerLen + (12 * i + (4 * ch + m))) + (4 * half + j) := by omega
  have hdiv (k : Nat) : (8 * k + (4 * half + j)) / 8 = k := by omega
  have hmod (k : Nat) : (8 * k + (4 * half + j)) % 8 = 4 * half + j := by omega
  have hbit : 6 - 2 * m + (1 - half) = 7 - (2 * m + half) := by omega
  obtain ⟨v, hv⟩ := exists_wire_channel h ((pix i).scale f) hch
  refine ⟨pairByte (v.extractLsb' (6 - 2 * m) 2), v, ?byte, hv, ?level⟩
  case byte => rw [hslot, hdiv, encodeStream_getElem? h pix f hi hch hm, hv, Option.map_some]
  case level =>
    rw [hslot, hmod, pairByte_slot _ hhalf hj, BitVec.getLsbD_extractLsb', hbit]
    simp [symbol, show 1 - half < 2 by omega]

/-! ## The inverse (R106) -/

theorem decPair_pairByte (b : BitVec 2) : decPair (pairByte b) = some b := by
  revert b
  decide

/-- A byte is its four pairs of bits put back to back. -/
theorem append_bitPairs (v : Byte) :
    (v.extractLsb' 6 2 ++ v.extractLsb' 4 2 ++ v.extractLsb' 2 2 ++ v.extractLsb' 0 2 : BitVec (2 + 2 + 2 + 2)) = v := by
  apply BitVec.eq_of_toNat_eq
  have hv := v.isLt
  simp only [toNat_append_eq_add, BitVec.extractLsb'_toNat, Nat.shiftRight_eq_div_pow]
  omega

/-- `dec8` undoes `enc8`. -/
theorem dec8_of_enc8 {v e0 e1 e2 e3 : Byte} (h : enc8 v = [e0, e1, e2, e3]) : dec8 e0 e1 e2 e3 = some v := by
  obtain ⟨rfl, rfl, rfl, rfl⟩ : pairByte (v.extractLsb' 6 2) = e0 ∧ pairByte (v.extractLsb' 4 2) = e1 ∧
      pairByte (v.extractLsb' 2 2) = e2 ∧ pairByte (v.extractLsb' 0 2) = e3 := by
    simpa [enc8] using h
  simp only [dec8, decPair_pairByte, append_bitPairs]

theorem decChannels_flatMap_enc8 (vs : List Byte) : decChannels (vs.flatMap enc8) = some vs := by
  induction vs with
  | nil => rfl
  | cons v vs ih =>
    have hv := dec8_of_enc8 (v := v) rfl
    simp [List.flatMap_cons, enc8, decChannels, hv, ih]

/-- The channels of a legal order give the color back, whichever of the two orders it is (R100, R106). -/
theorem groupColors_wire_append {c : Config} (h : c.legal = true) (p : Color) (vs : List Byte) :
    groupColors c.order (wire c.order p ++ vs) = (groupColors c.order vs).map (p :: ·) := by
  rcases legal_order h with ho | ho <;> rw [ho] <;> rfl

theorem groupColors_flatMap_wire {c : Config} (h : c.legal = true) (ps : List Color) :
    groupColors c.order (ps.flatMap (wire c.order)) = some ps := by
  induction ps with
  | nil => rfl
  | cons p ps ih => rw [List.flatMap_cons, groupColors_wire_append h, ih, Option.map_some]

/-- At factor 255 the bytes after the header are those of the pixels' own channels (R103, R107 (a)). -/
theorem drop_header_encodeStream (c : Config) (pix : Nat → Color) :
    (encodeStream c pix 255#8).drop c.headerLen = (((List.range c.n).map pix).flatMap (wire c.order)).flatMap enc8 := by
  have hdrop : (encodeStream c pix 255#8).drop c.headerLen =
      (List.range c.n).flatMap fun i => encPix c.order ((pix i).scale 255#8) :=
    List.drop_left' (List.length_replicate ..)
  rw [hdrop, List.flatMap_assoc, List.flatMap_map]
  simp only [scale_full, encPix]

/-- Settles O47: after the header the bytes decode to the channels, and the channels group to the colors. -/
theorem streamRoundTrip : Obligations.StreamRoundTrip := by
  refine ⟨⟨by rfl, by rfl, fun x hone hzero => ?invalid⟩, fun _ _ _ _ _ => dec8_of_enc8, fun c pix h => ?stream⟩
  case invalid => rw [dec4, if_neg hone, if_neg hzero]
  case stream =>
    rw [decodeStream, drop_header_encodeStream, decChannels_flatMap_enc8]
    exact groupColors_flatMap_wire h _

/-! ## SEND and ENCODE in IDLE (R111, R112, R128) -/

/-- The encoder's write puts stream byte `k` into ENC[k] for every `k < LEN`, and 0x00 beyond (R103, R111). -/
theorem Inv.encAt_loadStream {s : State} (h : Inv s) :
    (∀ k, k < s.cfg.len → (encodeStream s.cfg s.pixAt s.bright)[k]? = some (s.loadStream.encAt k)) ∧
      ∀ k, s.cfg.len ≤ k → s.loadStream.encAt k = 0x00#8 := by
  have hlen := encodeStream_length h.legal s.pixAt s.bright
  refine ⟨fun k hk => ?_, fun k hk => ?_⟩ <;> rw [State.encAt_loadStream]
  · have hk' : k < (encodeStream s.cfg s.pixAt s.bright).length := by rwa [hlen]
    rw [List.getElem?_eq_getElem hk', List.getD_eq_getElem _ _ hk']
  · rw [List.getD_eq_default _ _ (by rwa [hlen])]
    rfl

/-- Settles O29: SEND loads the stream and starts the frame; with FAULT clear STATUS then shows BUSY alone. -/
theorem sendEncodesAndStarts : Obligations.SendEncodesAndStarts := by
  refine ⟨by rfl, fun s h hp => ?_⟩
  obtain ⟨hstream, hbeyond⟩ := h.encAt_loadStream
  have hfault : s.loadStream.fault = false := by simp [h.fault_eq, hp]
  exact ⟨_, accept_idle (body := fun s => s.loadStream.startFrame) hp, rfl, hstream, hbeyond, statusWord_startFrame hfault⟩

/-- Settles O30: ENCODE loads the stream, and STATUS does not depend on ENC. -/
theorem encodePrerenders : Obligations.EncodePrerenders := by
  refine ⟨by rfl, fun s h hp => ?_⟩
  obtain ⟨hstream, hbeyond⟩ := h.encAt_loadStream
  exact ⟨_, accept_idle hp, rfl, hstream, hbeyond, rfl⟩

end Sys2Proof
end

section
/-!
SUPPORT. The proofs of family 42_transmitter.md: the device tick by phase (R121 to R124), the commands that do not encode
(R126 to R130), the phase transition table (R133), the line trace of a frame and its gap (R125, R132), and reset-gap
enforcement (R131).
-/

namespace Sys2Proof

open Sys2Proof.Machine

/-! ## The device tick (R121 to R124) -/

/-- Settles O34: the effect of a tick in IDLE. -/
theorem idleTickDrivesLow : Obligations.IdleTickDrivesLow :=
  fun bf _ hp => tick_of_effect (.idle bf hp)

/-- Settles O35: a fault is taken as it stands; without one the position moves by the branches of `State.advance`, which
end the frame at the last byte. -/
theorem busyTickShifts : Obligations.BusyTickShifts := by
  intro s hp
  refine ⟨⟨_, _, tick_of_effect (.busFault hp)⟩, fun hpos => ?_⟩
  rw [tick_of_effect (.shift hp hpos), State.shiftOut, State.advance]
  simp only [Nat.lt_sub_iff_add_lt]
  split_ifs <;> rfl

/-- Settles O36: GAPCNT is 1, and the gap ends, or it is larger, and the gap goes on. -/
theorem gapTickCountsDown : Obligations.GapTickCountsDown := by
  intro bf s hp hg
  obtain ⟨g, hg⟩ := Nat.exists_eq_add_of_le' hg
  cases g with
  | zero =>
    rw [tick_of_effect (.gapEnd bf hp hg)]
    simp [hg]
  | succ g =>
    rw [tick_of_effect (.gapRun bf hp g hg)]
    simp [hg, hp]

/-- Settles O37: the effect of a tick in HALTED is a draw of the line. -/
theorem haltedTickChangesOnlyLine : Obligations.HaltedTickChangesOnlyLine :=
  fun bf _ hp => ⟨_, _, tick_of_effect (.halted bf hp)⟩

/-! ## The commands (R126 to R130) -/

/-- In HALTED a command is dropped. -/
theorem exec_command_halted {c : Instr} (h : c ∈ commandInstrs) {s : State} (hp : s.phase = .halted) :
    exec c s = .next s.complete := by
  obtain ⟨body, hbody, -⟩ := exec_command h
  rw [hbody, accept_halted hp]

/-- Settles O27: the acceptance rule, phase by phase. -/
theorem commandAcceptance : Obligations.CommandAcceptance := by
  intro c s hc
  split
  next hp => exact exec_command_idle hc hp
  next hp => exact exec_command_held hc (.inl hp)
  next hp => exact exec_command_held hc (.inr hp)
  next hp => exact exec_command_halted hc hp

/-- Settles O28: the body of NOP is empty, so only the completion is left. -/
theorem nopCompletesInIdle : Obligations.NopCompletesInIdle :=
  ⟨by rfl, fun _ hp => accept_idle (body := id) hp⟩

/-- Settles O31: the body of SEND_STREAM is the start of a frame. -/
theorem sendStreamStartsFrame : Obligations.SendStreamStartsFrame :=
  ⟨by rfl, fun _ hp => accept_idle (body := State.startFrame) hp⟩

/-- Settles O32: the body of IDLE_GAP is the start of a gap. -/
theorem idleGapStartsGap : Obligations.IdleGapStartsGap :=
  ⟨by rfl, fun _ hp => accept_idle (body := State.startGap) hp⟩

/-! ## The phase transition table (R133) -/

/-- PHASE after a tick. -/
def phaseAfterTick (bf : Bool) (s : State) : Phase :=
  match s.phase with
  | .idle => .idle
  | .busy => if bf then .halted else if s.pos + 1 = s.cfg.len ∧ s.slot = 7 then .gap else .busy
  | .gap => if s.gapcnt = 1 then .idle else .gap
  | .halted => .halted

/-- PHASE after a host transaction accepted in the phase `p`. -/
def phaseAfterExec (i : Instr) (p : Phase) : Phase :=
  match i with
  | .send => if p = .idle then .busy else p
  | .sendStream => if p = .idle then .busy else p
  | .idleGap => if p = .idle then .gap else p
  | _ => p

theorem advance_phase {s : State} (hpos : s.pos < s.cfg.len) :
    s.advance.phase = if s.pos + 1 = s.cfg.len ∧ s.slot = 7 then .gap else s.phase := by
  rcases advance_cases s with ⟨hslot, e⟩ | ⟨-, hnext, e⟩ | ⟨hslot, hlast, e⟩ <;> rw [e]
  · rw [if_neg (by omega)]
  · rw [if_neg (by omega)]
  · rw [if_pos ⟨by omega, hslot⟩, State.endFrame_phase]

theorem tickEffect_phase {s t : State} {bf : Bool} (h : TickEffect s bf t) : t.phase = phaseAfterTick bf s := by
  cases h with
  | idle _ hp => simp [phaseAfterTick, hp]
  | busFault hp => simp [phaseAfterTick, hp]
  | shift hp hpos =>
    have hphase : s.shiftOut.phase = _ := advance_phase (s := { s with dout := s.currentBit }) hpos
    simp [phaseAfterTick, hphase, hp]
  | gapEnd _ hp h1 => simp [phaseAfterTick, hp, h1]
  | gapRun _ hp g h2 => simp [phaseAfterTick, hp, h2]
  | halted _ hp => simp [phaseAfterTick, hp]

theorem phaseAfterTick_takeTurn (bf : Bool) (s : State) : phaseAfterTick bf s.takeTurn.2 = phaseAfterTick bf s := by
  simp [phaseAfterTick]

/-- A command moves PHASE only in IDLE, and there to what its body leaves. -/
theorem accept_phase {body : State → State} {s t : State} (h : accept body s = .next t) :
    t.phase = if s.phase = .idle then (body s).phase else s.phase := by
  rcases accept_next h with ⟨hp, rfl⟩ | ⟨hp, rfl⟩ | ⟨hp, rfl⟩
  · rw [if_pos hp, State.complete_phase]
  · rw [if_neg (by rcases hp with hp | hp <;> simp [hp])]
  · rw [if_neg (by simp [hp]), State.complete_phase]

/-- A row that is no command leaves PHASE; NOP and ENCODE have bodies that do. -/
theorem exec_phase {i : Instr} {s t : State} (h : exec i s = .next t) : t.phase = phaseAfterExec i s.phase := by
  by_cases hc : i ∈ commandInstrs
  · simp only [commandInstrs, List.mem_cons, List.not_mem_nil, or_false] at hc
    rcases hc with rfl | rfl | rfl | rfl | rfl
    · exact (accept_phase (body := id) h).trans (ite_self _)
    · exact accept_phase (body := fun s => s.loadStream.startFrame) h
    · exact (accept_phase (body := State.loadStream) h).trans (ite_self _)
    · exact accept_phase (body := State.startFrame) h
    · exact accept_phase (body := State.startGap) h
  · obtain ⟨u, hu, he⟩ := exec_access_effect hc s
    obtain rfl : u = t := Host.Outcome.next.inj (hu.symm.trans h)
    cases i
    case send | sendStream | idleGap => exact absurd (by decide) hc
    all_goals exact he.sequencer.1

/-- Settles O53: a tick and an instruction take the rows of `phaseAfterTick` and `phaseAfterExec`, and taking the turn
leaves what those look at. -/
theorem phaseTransitionTable : Obligations.PhaseTransitionTable := by
  intro s t hinv hstep
  rw [step_legal hinv.legal] at hstep
  cases hturn : s.takeTurn.1 <;> rw [hturn] at hstep
  case reset =>
    cases hstep
    exact State.applyReset_phase _
  case tick bf =>
    have hphase := tickEffect_phase (tick_next hstep)
    rw [phaseAfterTick_takeTurn] at hphase
    cases hp : s.phase <;> simpa [phaseAfterTick, hp] using hphase
  case host =>
    simp only [turnStep, hostTurn] at hstep
    cases hpending : s.takeTurn.2.pending with
    | none =>
      simp only [hpending, Host.Outcome.next.injEq] at hstep
      simp [← hstep]
    | some r =>
      cases r with
      | error e => simp [hpending] at hstep
      | ok i =>
        simp only [hpending] at hstep
        have hphase := exec_phase hstep
        rw [takeTurn_phase] at hphase
        cases i <;> exact hphase

/-! ## Reset-gap enforcement (R131) -/

theorem run_succ_next {k : Nat} {s t : State} (h : run (k + 1) s = .next t) :
    ∃ u, step s = .next u ∧ run k u = .next t := by
  cases hu : step s with
  | next u => exact ⟨u, rfl, by rwa [run_succ k hu] at h⟩
  | fault f => simp [run, hu] at h
  | refused r => simp [run, hu] at h

/-- A tick in GAP is low and counts down, and the gap goes on unless it counts to 0 (R123). -/
theorem tickEffect_gap {s t : State} {bf : Bool} (h : TickEffect s bf t) (hp : s.phase = .gap) :
    t.dout = false ∧ t.gapcnt + 1 = s.gapcnt ∧ (t.gapcnt = 0 ∨ t.phase = .gap) := by
  cases h with
  | gapEnd _ _ h1 => exact ⟨rfl, h1.symm, .inl rfl⟩
  | gapRun _ hg g h2 => exact ⟨rfl, h2.symm, .inr hg⟩
  | idle _ hx | busFault hx | shift hx _ | halted _ hx => simp [hp] at hx

/-- In GAP, up to BUSY, GAPCNT ticks come first, all low: a host turn leaves PHASE and GAPCNT, and a tick counts down. -/
theorem gap_ticks_before_busy {s t : State} {turns rest : List Turn} (hp : s.phase = .gap) (hs : s.script = turns ++ rest)
    (hno : ∀ u ∈ turns, noReset u = true) (hrun : run turns.length s = .next t) (ht : t.phase = .busy) :
    ∃ later, tickTrace turns.length s = List.replicate s.gapcnt (Phase.gap, false) ++ later := by
  induction turns generalizing s with
  | nil =>
    obtain rfl : s = t := Host.Outcome.next.inj hrun
    simp [hp] at ht
  | cons u us ih =>
    rw [List.forall_mem_cons] at hno
    obtain ⟨s', hstep, hrun'⟩ := run_succ_next hrun
    obtain ⟨-, he⟩ := step_next hstep
    rw [List.length_cons, tickTrace_succ _ hstep, takeTurn_cons hs]
    rw [takeTurn_cons hs] at he
    cases he with
    | noTransaction _ => exact ih hp rfl hno.2 hrun'
    | host _ he =>
      obtain ⟨-, hphase, -, -, -, hgapcnt, -, hscript, -, -⟩ := hostEffect_outside_idle he (by simp [hp])
      obtain ⟨later, hlater⟩ := ih (hphase.trans hp) hscript hno.2 hrun'
      exact ⟨later, hlater.trans (by rw [hgapcnt])⟩
    | tick bf _ he =>
      obtain ⟨hdout, hgapcnt, hphase⟩ := tickEffect_gap he hp
      rw [← show s'.gapcnt + 1 = s.gapcnt from hgapcnt, List.replicate_succ, hp, hdout]
      rcases hphase with h0 | hg
      · exact ⟨tickTrace us.length s', by simp [isTick, h0]⟩
      · obtain ⟨later, hlater⟩ := ih hg (tickEffect_script he) hno.2 hrun'
        exact ⟨later, by simp [isTick, hlater]⟩
    | reset => simp [noReset] at hno

/-- Settles O57: BUSY is reached from GAP only through the ticks of the gap. -/
theorem resetGapEnforced : Obligations.ResetGapEnforced :=
  fun _ _ _ _ => gap_ticks_before_busy

/-! ## A frame and its gap, tick by tick (R125, R132) -/

section
variable {P : Nat → State → Prop} {line : Nat → Phase × Bool} {allowed : Turn → Bool} {K : Nat}

/-- The induction over the turns of a run, once. `P n` says what holds after `n` of `K` ticks; each turn before the last tick
keeps it, a tick as `P (n + 1)` with the entry `line n` in the trace. So the turns up to the last tick reach `P K`, and their
trace is those entries. -/
theorem run_of_ticks
    (hturn : ∀ (n : Nat) (s : State) (u : Turn) (us : List Turn), P n s → n < K → allowed u = true → s.script = u :: us →
      ∃ t, step s = .next t ∧ t.script = us ∧ P (n + if isTick u then 1 else 0) t ∧
        (isTick u = true → (s.phase, t.dout) = line n))
    {turns rest : List Turn} {n : Nat} {s : State} (h : P n s) (hs : s.script = turns ++ rest)
    (hallowed : ∀ u ∈ turns, allowed u = true) (hticks : n + turns.countP isTick = K)
    (hlast : ∀ u ∈ turns.getLast?, isTick u = true) :
    ∃ t, run turns.length s = .next t ∧ t.script = rest ∧ P K t ∧
      tickTrace turns.length s = (List.range' n (turns.countP isTick)).map line := by
  induction turns generalizing n s with
  | nil =>
    obtain rfl : n = K := hticks
    exact ⟨s, rfl, hs, h, rfl⟩
  | cons u us ih =>
    rw [List.forall_mem_cons] at hallowed
    have htick : 0 < (u :: us).countP isTick :=
      List.countP_pos_iff.mpr ⟨_, List.getLast_mem (List.cons_ne_nil u us), hlast _ (List.getLast?_eq_some_getLast _)⟩
    obtain ⟨t, hstep, hscript, ht, hline⟩ := hturn n s u _ h (by omega) hallowed.1 hs
    rw [List.countP_cons] at hticks
    obtain ⟨t', hrun, hscript', ht', htrace⟩ := ih ht hscript hallowed.2 (by omega)
      fun v hv => hlast v (by simp [List.getLast?_cons, Option.mem_def.mp hv])
    refine ⟨t', (run_succ _ hstep).trans hrun, hscript', ht', ?_⟩
    rw [List.length_cons, tickTrace_succ _ hstep, takeTurn_cons hs, htrace, List.countP_cons]
    cases hu : isTick u
    · simp
    · simp [hline hu, List.range'_succ]

end

/-- A frame or its gap under way in the configuration `c`, `d` ticks away from IDLE, with a host whose accesses all have a
meaning. -/
structure Underway (c : Config) (d : Nat) (s : State) : Prop where
  inv : Inv s
  notHalted : s.phase ≠ .halted
  accepted : ∀ a ∈ s.host, a.accepted = true
  config : s.cfg = c
  away : ticksToIdle s = d

section
variable {c : Config} {d : Nat} {s t : State} {us : List Turn}

/-- More than a gap away from IDLE is in the frame. -/
theorem Underway.busy (h : Underway c d s) (hd : c.resetTicks < d) : s.phase = .busy := by
  obtain ⟨hinv, hp, -, rfl, rfl⟩ := h
  rcases phase_cases_of_not_halted hp with hi | hb | hg
  · simp [ticksToIdle, hi] at hd
  · exact hb
  · rw [ticksToIdle_gap hg] at hd
    exact absurd hinv.gapRange (by omega)

theorem Underway.gap (h : Underway c d s) (h0 : 0 < d) (hd : d ≤ c.resetTicks) : s.phase = .gap := by
  obtain ⟨hinv, hp, -, rfl, rfl⟩ := h
  rcases phase_cases_of_not_halted hp with hi | hb | hg
  · simp [ticksToIdle, hi] at h0
  · rw [ticksToIdle_busy hb] at hd
    exact absurd hinv.posRange (by omega)
  · exact hg

theorem Underway.idle (h : Underway c 0 s) : s.phase = .idle := by
  rcases phase_cases_of_not_halted h.notHalted with hi | hp
  · exact hi
  · exact absurd (h.inv.ticksToIdle_pos hp) (by simp [h.away])

theorem Underway.busy_or_gap (h : Underway c (d + 1) s) : s.phase = .busy ∨ s.phase = .gap := by
  rcases Nat.lt_or_ge c.resetTicks (d + 1) with hd | hd
  · exact .inl (h.busy hd)
  · exact .inr (h.gap d.succ_pos hd)

theorem Underway.not_idle (h : Underway c (d + 1) s) : s.phase ≠ .idle := by
  rcases h.busy_or_gap with hp | hp <;> simp [hp]

theorem Underway.dropTurn (h : Underway c d s) : Underway c d { s with script := us } :=
  { h with inv := { h.inv with } }

/-- Before IDLE no host transaction touches the sequencer (R80, R126). -/
theorem Underway.hostEffect (h : Underway c (d + 1) s) (he : HostEffect s t) : Underway c (d + 1) t := by
  obtain ⟨hcfg, hphase, -, hpos, hslot, hgapcnt, -, -, -, hhost⟩ := hostEffect_outside_idle he h.not_idle
  exact ⟨h.inv.hostEffect he, by rw [hphase]; exact h.notHalted, fun a ha => h.accepted a (hhost a ha),
    hcfg.trans h.config, by rw [← h.away, ticksToIdle, ticksToIdle, hphase, hcfg, hpos, hslot, hgapcnt]⟩

theorem Underway.tickEffect (h : Underway c (d + 1) s) (he : TickEffect s false t) : Underway c d t :=
  ⟨h.inv.tickEffect he, h.inv.tickEffect_not_halted h.notHalted he, by rw [tickEffect_host he]; exact h.accepted,
    (tickEffect_cfg he).trans h.config, Nat.succ.inj ((tickEffect_ticksToIdle he h.busy_or_gap).trans h.away)⟩

/-- A host turn takes IDLE no nearer, and leaves ENC alone in the frame (R58, R92). -/
theorem Underway.step_host (h : Underway c (d + 1) s) (hs : s.script = .host :: us) :
    ∃ t, step s = .next t ∧ t.script = us ∧ Underway c (d + 1) t ∧ (s.phase = .busy → t.enc = s.enc) := by
  have hdrop : Underway c (d + 1) { s with script := us } := h.dropTurn
  obtain ⟨t, hstep, rfl | he⟩ := Sys2Proof.step_host h.inv.legal hs h.accepted
  · exact ⟨_, hstep, rfl, hdrop, fun _ => rfl⟩
  · obtain ⟨-, -, -, -, -, -, -, hscript, henc, -⟩ := hostEffect_outside_idle he h.not_idle
    exact ⟨t, hstep, hscript, hdrop.hostEffect he, henc⟩

/-- In GAP a tick does what it does on a healthy bus (R123, R146). -/
theorem tickEffect_healthy_of_gap {bf : Bool} (hp : s.phase = .gap) (h : TickEffect s bf t) : TickEffect s false t := by
  cases h with
  | gapEnd _ hg h1 => exact .gapEnd false hg h1
  | gapRun _ hg g h2 => exact .gapRun false hg g h2
  | idle _ hx | busFault hx | shift hx _ | halted _ hx => simp [hp] at hx

/-- A tick of a bus that is healthy where it matters takes IDLE one tick nearer. -/
theorem Underway.step_tick {bf : Bool} (h : Underway c (d + 1) s) (hs : s.script = .tick bf :: us)
    (hbf : bf = false ∨ s.phase = .gap) :
    ∃ t, step s = .next t ∧ t.script = us ∧ Underway c d t ∧ TickEffect { s with script := us } false t := by
  obtain ⟨t, ht⟩ := tick_some (s := { s with script := us }) bf (fun _ => h.inv.posRange) h.inv.gapRuns
  have he : TickEffect { s with script := us } false t := by
    rcases hbf with rfl | hp
    · exact tick_next ht
    · exact tickEffect_healthy_of_gap hp (tick_next ht)
  exact ⟨t, (step_of_script h.inv.legal hs).trans ht, tickEffect_script he, h.dropTurn.tickEffect he, he⟩

end

/-- `n` slots of the frame that started in `s₀` have been sent, and ENC is still what it was there. -/
structure Sending (s₀ : State) (n : Nat) (s : State) : Prop where
  underway : Underway s₀.cfg (8 * s₀.cfg.len + s₀.cfg.resetTicks - n) s
  enc : s.enc = s₀.enc

/-- The bit that goes on the line next is that of slot `n` (R105, R125). -/
theorem Sending.currentBit {s₀ s : State} {n : Nat} (h : Sending s₀ n s) (hn : n < 8 * s₀.cfg.len)
    (hp : s.phase = .busy) :
    s.currentBit = frameSlot s₀.encAt n := by
  have haway := h.underway.away
  rw [ticksToIdle_busy hp, h.underway.config] at haway
  have hpos := h.underway.inv.posRange
  rw [h.underway.config] at hpos
  have hslot := s.slot.isLt
  obtain rfl : n = 8 * s.pos + s.slot.val := by omega
  rw [frameSlot, State.currentBit, State.encAt, State.encAt, h.enc, show (8 * s.pos + s.slot.val) / 8 = s.pos by omega,
    show (8 * s.pos + s.slot.val) % 8 = s.slot.val by omega]

/-- A turn of a healthy bus before the last slot is sent: a tick puts its slot on the line. -/
theorem Sending.step_healthy {s₀ s : State} {n : Nat} {u : Turn} {us : List Turn} (h : Sending s₀ n s)
    (hn : n < 8 * s₀.cfg.len) (hu : healthy u = true) (hs : s.script = u :: us) :
    ∃ t, step s = .next t ∧ t.script = us ∧ Sending s₀ (n + if isTick u then 1 else 0) t ∧
      (isTick u = true → (s.phase, t.dout) = (Phase.busy, frameSlot s₀.encAt n)) := by
  obtain ⟨d, hd⟩ : ∃ d, 8 * s₀.cfg.len + s₀.cfg.resetTicks - n = d + 1 := Nat.exists_eq_add_one.mpr (by omega)
  have hunder := h.underway
  have hp : s.phase = .busy := hunder.busy (by omega)
  rw [hd] at hunder
  cases u with
  | host =>
    obtain ⟨t, hstep, hscript, ht, henc⟩ := hunder.step_host hs
    exact ⟨t, hstep, hscript, ⟨by rwa [← hd] at ht, (henc hp).trans h.enc⟩, by simp [isTick]⟩
  | tick bf =>
    obtain rfl : bf = false := by simpa [healthy] using hu
    obtain ⟨t, hstep, hscript, ht, he⟩ := hunder.step_tick hs (.inl rfl)
    refine ⟨t, hstep, hscript, ⟨?_, (tickEffect_enc he).trans h.enc⟩, fun _ => ?_⟩
    · rwa [show d = 8 * s₀.cfg.len + s₀.cfg.resetTicks - (n + 1) by omega] at ht
    · cases he with
      | shift _ _ => rw [hp, State.shiftOut_dout, ← h.currentBit hn hp]; rfl
      | idle _ hx | gapEnd _ hx _ | gapRun _ hx _ _ | halted _ hx => simp [hp] at hx
  | reset => simp [healthy] at hu

/-- A turn without RESET before the last tick of the gap, whatever BUS_FAULT is: a tick is low. -/
theorem Underway.step_gap {c : Config} {s : State} {n : Nat} {u : Turn} {us : List Turn}
    (h : Underway c (c.resetTicks - n) s) (hn : n < c.resetTicks) (hu : noReset u = true) (hs : s.script = u :: us) :
    ∃ t, step s = .next t ∧ t.script = us ∧ Underway c (c.resetTicks - (n + if isTick u then 1 else 0)) t ∧
      (isTick u = true → (s.phase, t.dout) = (Phase.gap, false)) := by
  obtain ⟨d, hd⟩ : ∃ d, c.resetTicks - n = d + 1 := Nat.exists_eq_add_one.mpr (by omega)
  have hp : s.phase = .gap := h.gap (by omega) (by omega)
  rw [hd] at h
  cases u with
  | host =>
    obtain ⟨t, hstep, hscript, ht, -⟩ := h.step_host hs
    exact ⟨t, hstep, hscript, by rwa [← hd] at ht, by simp [isTick]⟩
  | tick bf =>
    obtain ⟨t, hstep, hscript, ht, he⟩ := h.step_tick hs (.inr hp)
    refine ⟨t, hstep, hscript, ?_, fun _ => ?_⟩
    · rwa [show d = c.resetTicks - (n + 1) by omega] at ht
    · obtain ⟨hdout, -⟩ := tickEffect_gap he hp
      rw [hp, hdout]
  | reset => simp [noReset] at hu

/-- A frame accepted in IDLE is under way, with none of it sent. -/
theorem Inv.sending {s₀ s : State} (hinv : Inv s₀) (hp : s₀.phase = .idle)
    (hexec : exec .send s₀ = .next s ∨ exec .sendStream s₀ = .next s) (hhost : ∀ a ∈ s.host, a.accepted = true) :
    Sending s 0 s := by
  have hs : Inv s := by
    rcases hexec with h | h <;> exact hinv.hostEffect (exec_next h)
  obtain ⟨hphase, hpos, hslot⟩ : s.phase = .busy ∧ s.pos = 0 ∧ s.slot = 0 := by
    rcases hexec with h | h
    · cases (accept_idle (body := fun s => s.loadStream.startFrame) hp).symm.trans h
      exact ⟨rfl, rfl, rfl⟩
    · cases (accept_idle (body := State.startFrame) hp).symm.trans h
      exact ⟨rfl, rfl, rfl⟩
  exact ⟨⟨hs, by simp [hphase], hhost, rfl, by simp [ticksToIdle_busy hphase, hpos, hslot]⟩, rfl⟩

/-- Settles O56: the frame is a run of `Sending` up to its last slot, where a gap of RESET_TICKS is left, and the gap is a
run of `Underway` up to IDLE. -/
theorem frameTrace : Obligations.FrameTrace := by
  intro s₀ s frame gap rest hinv hp hexec hhost hs hhealthy hframe hframeLast hno hgap hgapLast
  rw [List.append_assoc] at hs
  obtain ⟨m, hrun, hscript, hm, htrace⟩ := run_of_ticks (P := Sending s) (allowed := healthy)
    (fun _ _ _ _ h hn hu hs => h.step_healthy hn hu hs) (hinv.sending hp hexec hhost) hs hhealthy
    (by rw [hframe, Nat.zero_add]) (by simp [hframeLast, isTick])
  have hgapStart := hm.underway
  rw [Nat.add_sub_cancel_left] at hgapStart
  obtain ⟨t, hrun', -, ht, htrace'⟩ := run_of_ticks (P := fun n => Underway s.cfg (s.cfg.resetTicks - n))
    (line := fun _ => (Phase.gap, false)) (allowed := noReset) (n := 0)
    (fun _ _ _ _ h hn hu hs => h.step_gap hn hu hs) hgapStart hscript hno
    (by rw [hgap, Nat.zero_add]) (by obtain ⟨bf, h⟩ := hgapLast; simp [h, isTick])
  rw [Nat.sub_self] at ht
  have hidle := ht.idle
  refine ⟨m, t, hrun, ?_, hm.enc, hrun', ?_, hidle, by simp [ht.inv.fault_eq, hidle]⟩
  · rw [htrace, hframe, List.range_eq_range']
    rfl
  · rw [htrace', hgap, List.map_const', List.length_range']

end Sys2Proof
end

section
/-!
SUPPORT. The proof of family 60_exceptions.md: HALTED is terminal until RESET (R148, R149).
-/

namespace Sys2Proof

open Sys2Proof.Machine

/-! ## HALTED (R148, R149) -/

theorem tickEffect_halted {s t : State} {bf : Bool} (h : TickEffect s bf t) (hp : s.phase = .halted) : t = s.drawLine := by
  cases h with
  | idle _ hx | busFault hx | shift hx _ | gapEnd _ hx _ | gapRun _ hx _ _ => simp [hp] at hx
  | halted _ _ => rfl

/-- A turn other than RESET leaves the sequencer where the fault stopped it. -/
theorem turnEffect_halted {s t : State} {u : Turn} (h : TurnEffect s u t) (hp : s.phase = .halted) (hu : u ≠ .reset) :
    t.phase = .halted ∧ t.fault = s.fault ∧ t.pos = s.pos ∧ t.slot = s.slot ∧ t.gapcnt = s.gapcnt := by
  cases h with
  | noTransaction _ => exact ⟨hp, rfl, rfl, rfl, rfl⟩
  | host _ he =>
    obtain ⟨-, hphase, hfault, hpos, hslot, hgapcnt, -⟩ := hostEffect_outside_idle he (by simp [hp])
    exact ⟨hphase.trans hp, hfault, hpos, hslot, hgapcnt⟩
  | tick _ _ he =>
    rw [tickEffect_halted he hp]
    exact ⟨hp, rfl, rfl, rfl, rfl⟩
  | reset => exact absurd rfl hu

/-- Settles O54: a host transaction outside IDLE and a tick in HALTED leave the sequencer as it is, and so does taking the
turn. -/
theorem haltedIsTerminal : Obligations.HaltedIsTerminal := by
  intro s t hp h hu
  obtain ⟨-, he⟩ := step_next h
  simpa using turnEffect_halted he (by simp [hp]) hu

end Sys2Proof
end

section
/-!
SUPPORT. The proofs of family 70_reset_and_hazards.md: ENCODE and a later SEND_STREAM against SEND (R174), and the end of a
run (R178).
-/

namespace Sys2Proof

open Sys2Proof.Machine

/-! ## ENCODE, then SEND_STREAM (R174) -/

/-- Settles O33: the body of SEND is that of ENCODE followed by that of SEND_STREAM, and the latter reads neither PIX nor
BRIGHT; ENCODE leaves PHASE IDLE, so SEND_STREAM is accepted. -/
theorem encodeThenSendStreamIsSend : Obligations.EncodeThenSendStreamIsSend := by
  intro s p b hp
  have hencode : exec .encode s = .next s.loadStream.complete := accept_idle hp
  have hsend : exec .send s = .next s.loadStream.startFrame.complete :=
    accept_idle (body := fun s => s.loadStream.startFrame) hp
  have hidle : ({ s.loadStream.complete with pix := p, bright := b } : State).phase = .idle := hp
  exact ⟨_, _, hencode, hsend, accept_idle (body := State.startFrame) hidle⟩

/-! ## The end of a run (R178) -/

theorem endState_iff (s : State) : endState s = true ↔ s.host = [] ∧ s.phase = .idle ∧ s.fault = false := by
  simp [endState, and_assoc]

theorem endsWell_succ (k : Nat) {s t : State} (h : step s = .next t) :
    endsWell (k + 1) s = (!(s.phase == .halted) && endsWell k t) := by
  simp [endsWell, h]

theorem resetFree_succ (k : Nat) {s t : State} (h : step s = .next t) :
    resetFree (k + 1) s = (noReset s.takeTurn.1 && resetFree k t) := by
  simp [resetFree, h]

/-- HALTED is terminal until RESET, read backwards (R148). -/
theorem not_halted_of_step {s t : State} (h : step s = .next t) (hu : noReset s.takeTurn.1 = true)
    (ht : t.phase ≠ .halted) : s.phase ≠ .halted := by
  intro hp
  have hne : s.takeTurn.1 ≠ .reset := by
    intro hr
    simp [hr, noReset] at hu
  exact ht (haltedIsTerminal s t hp h hne).1

/-- A run without RESET that ends outside HALTED was never there. -/
theorem run_never_halted {k : Nat} {s t : State} (hrun : run k s = .next t) (hfree : resetFree k s = true)
    (ht : t.phase ≠ .halted) {j : Nat} {m : State} (hj : j ≤ k) (hm : run j s = .next m) : m.phase ≠ .halted := by
  induction k generalizing s m j with
  | zero =>
    obtain rfl := Nat.le_zero.mp hj
    obtain rfl : t = m := Host.Outcome.next.inj (hrun.symm.trans hm)
    exact ht
  | succ k ih =>
    obtain ⟨u, hstep, hrun'⟩ := run_succ_next hrun
    rw [resetFree_succ k hstep, Bool.and_eq_true] at hfree
    obtain ⟨hturn, hfree'⟩ := hfree
    cases j with
    | zero =>
      obtain rfl : s = m := Host.Outcome.next.inj hm
      exact not_halted_of_step hstep hturn (ih hrun' hfree' (Nat.zero_le k) (run_zero u))
    | succ j =>
      rw [run_succ j hstep] at hm
      exact ih hrun' hfree' (Nat.le_of_succ_le_succ hj) hm

/-- A run that was never in HALTED and whose last state is a good end has ended well. -/
theorem endsWell_of_never_halted {k : Nat} {s t : State} (hrun : run k s = .next t) (hend : endState t = true)
    (hnever : ∀ (j : Nat) (m : State), j ≤ k → run j s = .next m → m.phase ≠ .halted) : endsWell k s = true := by
  induction k generalizing s with
  | zero =>
    obtain rfl : s = t := Host.Outcome.next.inj hrun
    exact hend
  | succ k ih =>
    obtain ⟨u, hstep, hrun'⟩ := run_succ_next hrun
    have hfirst : s.phase ≠ .halted := hnever 0 s (Nat.zero_le _) (run_zero s)
    have hrest : endsWell k u = true :=
      ih hrun' fun j m hj hm => hnever (j + 1) m (Nat.succ_le_succ hj) ((run_succ j hstep).trans hm)
    simp [endsWell_succ k hstep, hfirst, hrest]

/-- Settles O59: no step but RESET leaves HALTED, so a run that ends in IDLE was never there. -/
theorem endedWellIsClean : Obligations.EndedWellIsClean := by
  intro k s t hrun hfree hhost hidle hfault
  have hnever : ∀ (j : Nat) (m : State), j ≤ k → run j s = .next m → m.phase ≠ .halted :=
    fun _ _ => run_never_halted hrun hfree (by simp [hidle])
  exact ⟨hnever, endsWell_of_never_halted hrun ((endState_iff t).mpr ⟨hhost, hidle, hfault⟩) hnever⟩

end Sys2Proof
end

section
/-!
SUPPORT. The proof of family other: a round of the free schedule ends with a device tick (R120, R138, log entry 2).
-/

namespace Sys2Proof

open Sys2Proof.Machine

/-! ## The start of a round (log entry 2) -/

/-- A round whose free turns are none is its closing tick alone. -/
theorem takeTurn_of_freeTurns_nil {s : State} (hs : s.script = []) (hf : Config.freeTurns s.rounds = []) :
    s.takeTurn = (.tick (Config.freeBusFault s.rounds), s.beginRound []) := by
  simp [State.takeTurn, hs, hf]

/-- A round with free turns gives the first of them and leaves the others, with the closing tick behind them. -/
theorem takeTurn_of_freeTurns_cons {s : State} {u : Turn} {rest : List Turn} (hs : s.script = [])
    (hf : Config.freeTurns s.rounds = u :: rest) :
    s.takeTurn = (u, s.beginRound (rest ++ [.tick (Config.freeBusFault s.rounds)])) := by
  simp [State.takeTurn, hs, hf]

/-- Settles O11: the round is its free turns followed by the tick that closes it, whether there are free turns or not. -/
theorem freeRoundEndsWithTick : Obligations.FreeRoundEndsWithTick := by
  intro s hs
  refine ⟨Config.freeTurns s.rounds, Config.freeBusFault s.rounds, ?_⟩
  cases hf : Config.freeTurns s.rounds with
  | nil => simp [takeTurn_of_freeTurns_nil hs hf]
  | cons u rest => simp [takeTurn_of_freeTurns_cons hs hf]

end Sys2Proof
end
